-- ==== Sys2Proof/Word.lean ====
section
/-! DEFINITION. The value types of `register_file_mips64`: cells, halves, indices, command words and the small
closed sets of names the spec uses (R7, R8, R71 to R73, R75, R200). -/

namespace Sys2Proof

/-- A 64-bit cell, and the 64-bit data bus (R7 `XLEN`, R72). -/
abbrev Word := BitVec 64

/-- A 32-bit view of a cell (R21). -/
abbrev Half := BitVec 32

/-- A register index of `IDXW` = 5 bits (R71): an index outside 0..31 cannot be written (U4). -/
abbrev Idx := BitVec 5

/-- The command word `req_cmd` (R72): `op` in bits 9:5, `idx` in bits 4:0. -/
abbrev Cmd := BitVec 10

/-- The half of the multiply-result pair a request selects: `k = 0` is HI, `k = 1` is LO (R32, R75). -/
inductive MdSel where
  | hi
  | lo
deriving DecidableEq, Repr

/-- The defined values of `op[4:2]` (R73). -/
inductive Target where
  | gpr
  | fpr
  | cp0
  | pc
  | md
  | ll
deriving DecidableEq, Repr

/-- The six request formats (R75). -/
inductive Format where
  /-- indexed read -/
  | ir
  /-- indexed write -/
  | iw
  /-- single-cell read -/
  | sr
  /-- single-cell write -/
  | sw
  /-- selected read -/
  | kr
  /-- selected write -/
  | kw
deriving DecidableEq, Repr

/-- The codes the block drives on `rsp_err` (R200). The fourth bit pattern, 11, is never driven, so it is no value
of this type. -/
inductive RspErr where
  | ok
  | reservedEncoding
  | oddPair
deriving DecidableEq, Repr, Inhabited

/-- A request as the port receives it (R72, R79): a 10-bit command word and a 64-bit data word. -/
structure Request where
  cmd   : Cmd
  wdata : Word
deriving DecidableEq, Repr

end Sys2Proof
end

