-- ==== Sys2Proof/Machine/Operands.lean ====
section
/-! DEFINITION. The views of a cell and the operand forms of the data bus (R8, R21, R51, R76). No value is ever
sign-extended, shifted or scaled. -/

namespace Sys2Proof.Machine

/-- `v[31:0]`, the 32-bit view of a cell (R21). -/
def low32 (v : Word) : Half := v.extractLsb' 0 32

/-- `v[63:32]`. -/
def high32 (v : Word) : Half := v.extractLsb' 32 32

/-- `hi ++ lo` (R8). -/
def join (hi lo : Half) : Word := hi ++ lo

/-- `zext_64` of a 32-bit view (R9, R76). -/
def zext64 (v : Half) : Word := v.setWidth 64

/-- `zext_64` of one bit (R9, R176). -/
def zextBit (b : Bool) : Word := (BitVec.ofBool b).setWidth 64

/-- A cell after a write of its 32-bit view: `old[63:32] ++ v` (R104, R123, R172). DESIGN CHOICE of the spec
(C3, D6, D7; log entry 9): the source says "unspecified/untouched" and the spec takes "untouched". -/
def setLow32 (old : Word) (v : Half) : Word := join (high32 old) v

/-- Byte `k` of a cell, `v[8k+7:8k]` (R8, R51). -/
def byteOf (v : Word) (k : Fin 8) : BitVec 8 := v.extractLsb' (8 * k.val) 8

end Sys2Proof.Machine
end

