-- ==== Sys2Proof/Config.lean ====
section
/-! DEFINITION. The implementation parameters of R7 with this hardware's values, and the free values of the one open
point, the response of an idle step (R78, U9). -/

namespace Sys2Proof

/-- `PAIRED_SPLIT` (R7, D10): how a paired-mode 64-bit FPR value is laid out. -/
inductive PairedSplit where
  /-- `EXACT`: split across the even cell and its successor (R125). -/
  | exactSplit
  /-- `CONTIGUOUS`: the approximating variant, all in the even cell (R130). -/
  | contiguous
deriving DecidableEq, Repr

/-- `RESET_POLICY` (R7, D15). -/
inductive ResetPolicy where
  /-- `ZERO`: every cell is 0 after reset (R230). -/
  | zero
  /-- `UNKNOWN`: no cell has a known value after reset, and reading one that nothing has written is a fault (R232). -/
  | unknown
deriving DecidableEq, Repr

/-- The parameters of R7. -/
structure Config where
  xlen        : Nat
  ngpr        : Nat
  nfpr        : Nat
  ncp0        : Nat
  idxw        : Nat
  /-- CP0 index of Status. -/
  statusIndex : Idx
  /-- The bit of the Status cell that holds FR. -/
  frBit       : Fin 64
  pairedSplit : PairedSplit
  resetPolicy : ResetPolicy
deriving DecidableEq, Repr

/-- This hardware's column of R7. PRESUMED (log entry 5): `statusIndex` and `frBit` are the spec's own general
knowledge (D11); unsafe if they are wrong. -/
def Config.hw : Config where
  xlen        := 64
  ngpr        := 32
  nfpr        := 32
  ncp0        := 32
  idxw        := 5
  statusIndex := 12
  frBit       := 26
  pairedSplit := .exactSplit
  resetPolicy := .zero

/-- `rsp_rdata` of the `n`-th idle step: a free value, because "the response is not defined" (R78, U9).
DESIGN CHOICE (log entry 3), safe: nothing can prove a value of it. -/
opaque Config.idleRdata : Nat → Word

/-- `rsp_err` of the `n`-th idle step: a free value among the codes that are ever driven (R78, R200).
DESIGN CHOICE (log entry 3). -/
opaque Config.idleErr : Nat → RspErr

end Sys2Proof
end

