-- ==== Sys2Proof/Syntax.lean ====
section
/-! DEFINITION. The instruction set: the 18 requests of the request map (R74), one constructor per row of
spec/opcode_table.json. Each carries the operands the request uses (R75, R76): the index, and the data bits the
request takes from `req_wdata`. Data bits a request ignores are dropped by the decoder, so they are not here. -/

namespace Sys2Proof

/-- A request with its operands. An index is 5 bits wide, so no term names a register outside 0..31 (R71, U4). -/
inductive Instr where
  /-- GPR_READ32 (R101) -/
  | gprRead32 (i : Idx)
  /-- GPR_READ64 (R102) -/
  | gprRead64 (i : Idx)
  /-- GPR_WRITE32 (R104) -/
  | gprWrite32 (i : Idx) (v : Half)
  /-- GPR_WRITE64 (R105) -/
  | gprWrite64 (i : Idx) (v : Word)
  /-- FPR_READ32 (R122) -/
  | fprRead32 (i : Idx)
  /-- FPR_READ64 (R127) -/
  | fprRead64 (i : Idx)
  /-- FPR_WRITE32 (R123) -/
  | fprWrite32 (i : Idx) (v : Half)
  /-- FPR_WRITE64 (R128) -/
  | fprWrite64 (i : Idx) (v : Word)
  /-- CP0_READ (R150) -/
  | cp0Read (i : Idx)
  /-- CP0_WRITE (R151) -/
  | cp0Write (i : Idx) (v : Word)
  /-- PC_READ32 (R170) -/
  | pcRead32
  /-- PC_READ64 (R171) -/
  | pcRead64
  /-- PC_WRITE32 (R172) -/
  | pcWrite32 (v : Half)
  /-- PC_WRITE64 (R173) -/
  | pcWrite64 (v : Word)
  /-- MD_READ (R174) -/
  | mdRead (k : MdSel)
  /-- MD_WRITE (R175) -/
  | mdWrite (k : MdSel) (v : Word)
  /-- LL_READ (R176) -/
  | llRead
  /-- LL_WRITE (R177) -/
  | llWrite (b : Bool)
deriving DecidableEq, Repr

end Sys2Proof
end

