-- ==== Sys2Proof/Machine/State.lean ====
section
/-! DEFINITION. The state of the block (R20 to R36), the signals of its port (R72), the state after reset (R230), and
the reasons a step can stop (R200, R203). -/

namespace Sys2Proof.Machine

/-- A bank of 32 cells of 64 bits (R20, R23, R27). -/
abbrev Bank := Vector Word 32

/-- The block's storage: exactly the 6337 bits of R36. -/
structure Regs where
  /-- general-purpose registers (R20) -/
  gpr   : Bank
  /-- floating-point registers, raw bits (R23) -/
  fpr   : Bank
  /-- CP0 control registers, a passive store (R27, R28) -/
  cp0   : Bank
  /-- program counter (R31) -/
  pc    : Word
  /-- HI, `hilo[0]` (R32) -/
  hi    : Word
  /-- LO, `hilo[1]` (R32) -/
  lo    : Word
  /-- load-linked flag (R33) -/
  llbit : Bool
deriving DecidableEq, Repr

/-- The input signals of one step (R72): `req_valid`, and `req_cmd` with `req_wdata`. -/
structure PortInput where
  valid : Bool
  req   : Request
deriving DecidableEq, Repr

/-- The output signals of one step (R72): `rsp_rdata` and `rsp_err`. -/
structure Response where
  rdata : Word
  err   : RspErr
deriving DecidableEq, Repr

/-- The machine: the block's storage, and its port. The block holds no request in flight (R35): `input` and `rsp` are
the port's signals, kept here so that a step is a function of its state. -/
structure State where
  /-- The block's storage. -/
  regs  : Regs
  /-- What the outside presents at the port in the coming steps, this step's first; past its end every step is idle.
  It is the one stream into which the external arbiter merges the clients (R236). DESIGN CHOICE (log entry 1). -/
  input : List PortInput
  /-- The response of the last step (R72). -/
  rsp   : Response
  /-- The model's own counter of idle steps, to which the free values of their responses are applied (R78, U9).
  DESIGN CHOICE (log entry 3). -/
  idles : Nat
deriving DecidableEq, Repr

/-- Why the machine stops: a contract violation of the caller, the block's only error (R200, R201). A model faults on
it (R203). Both are safe: no claim can rest on a violation. What the port shows of one is `portStep`. -/
inductive Fault where
  /-- RESERVED_ENCODING: raised by a step whose `req_cmd` is a reserved encoding (R77). Safe. -/
  | reservedEncoding
  /-- ODD_PAIR: raised by FPR_READ64 and FPR_WRITE64 with FR = 0 and an odd index (R129). Safe. -/
  | oddPair
deriving DecidableEq, Repr

/-- Why a request has no meaning. Nothing raises it: every constructor of `Instr` has its meaning. -/
inductive Refusal where
  /-- The instruction is not modelled yet; raised by an arm of `exec` only (none is left). Safe. -/
  | notModelled (mnemonic : String)
deriving DecidableEq, Repr

/-- A bank with every cell 0. -/
def Bank.zero : Bank := Vector.replicate 32 0

/-- The storage after reset under `RESET_POLICY = ZERO` (R230). -/
def Regs.reset : Regs where
  gpr   := Bank.zero
  fpr   := Bank.zero
  cp0   := Bank.zero
  pc    := 0
  hi    := 0
  lo    := 0
  llbit := false

/-- The machine right after reset (R230). The spec gives the storage; nothing is presented at the port, the response
signals read 0 and OK (DESIGN CHOICE, log entries 1 and 2) and no idle step has passed (log entry 3). -/
def State.reset : State where
  regs  := Regs.reset
  input := []
  rsp   := ⟨0, .ok⟩
  idles := 0

end Sys2Proof.Machine
end

