-- ==== Sys2Proof/Machine/Ops.lean ====
section
/-! DEFINITION. The named operations over the register banks and over the response, to which every meaning reduces
(R9): reading and replacing a cell, completing a read, completing a write, and `raise ContractViolation(code)`. The
block takes no MIPS exception and returns from none (R202, R211, R212), so `raise` is its whole exception behaviour. -/

namespace Sys2Proof.Machine

/-- The outcome of a step of this machine. -/
abbrev Result := Host.Outcome State Fault Refusal

/-! ## Banks -/

/-- Cell `i` of a bank (R9). -/
def cellAt (b : Bank) (i : Idx) : Word := b[i.toNat]'i.isLt

/-- The bank with cell `i` replaced (R9). -/
def setCell (b : Bank) (i : Idx) (v : Word) : Bank := b.set i.toNat v i.isLt

/-! ## General-purpose registers -/

/-- `gpr[i]`. Index 0 is read like any other: the stored cell (R22, C2; log entry 13). -/
def Regs.readGpr (r : Regs) (i : Idx) : Word := cellAt r.gpr i

/-- Every write of the GPR bank goes through here: the write enable is `i != 0` (R103). -/
def Regs.writeGpr (r : Regs) (i : Idx) (v : Word) : Regs :=
  if i = 0#5 then r else { r with gpr := setCell r.gpr i v }

/-- A write of the 32-bit view; the upper half is preserved (R104). -/
def Regs.writeGpr32 (r : Regs) (i : Idx) (v : Half) : Regs :=
  r.writeGpr i (setLow32 (r.readGpr i) v)

/-! ## Floating-point registers -/

/-- `fpr[i]`, raw bits (R121). -/
def Regs.readFpr (r : Regs) (i : Idx) : Word := cellAt r.fpr i

/-- `fpr[i] <- v`. No FPR is zero-suppressed (R133). -/
def Regs.writeFpr (r : Regs) (i : Idx) (v : Word) : Regs :=
  { r with fpr := setCell r.fpr i v }

/-- A write of the 32-bit view; the upper half and the pairing partner are preserved (R123). -/
def Regs.writeFpr32 (r : Regs) (i : Idx) (v : Half) : Regs :=
  r.writeFpr i (setLow32 (r.readFpr i) v)

/-! ## Control registers -/

/-- `cp0[i]` (R150). -/
def Regs.readCp0 (r : Regs) (i : Idx) : Word := cellAt r.cp0 i

/-- `cp0[i] <- v`, all 64 bits at every index (R28, R151, R155; C1). -/
def Regs.writeCp0 (r : Regs) (i : Idx) (v : Word) : Regs :=
  { r with cp0 := setCell r.cp0 i v }

/-! ## Program counter, multiply-result pair, load-linked flag -/

/-- `pc <- v`: no alignment check, no suppression (R31, R173). -/
def Regs.writePc (r : Regs) (v : Word) : Regs := { r with pc := v }

/-- A write of the 32-bit view of `pc`; the upper half is preserved (R172). -/
def Regs.writePc32 (r : Regs) (v : Half) : Regs := r.writePc (setLow32 r.pc v)

/-- `hilo[k]`: HI is `k = 0`, LO is `k = 1` (R32; D14, log entry 10). -/
def Regs.readMd (r : Regs) : MdSel → Word
  | .hi => r.hi
  | .lo => r.lo

/-- `hilo[k] <- v`; the other half is untouched (R175). -/
def Regs.writeMd (r : Regs) (k : MdSel) (v : Word) : Regs :=
  match k with
  | .hi => { r with hi := v }
  | .lo => { r with lo := v }

/-- `llbit <- b` (R177). -/
def Regs.writeLl (r : Regs) (b : Bool) : Regs := { r with llbit := b }

/-! ## Ends of a request -/

/-- A read completes: `rdata <- v`, code OK, no cell changes (R56, R76). -/
def answer (s : State) (v : Word) : Result :=
  .next { s with rsp := ⟨v, .ok⟩ }

/-- A write completes: the storage becomes `r`, `rdata <- 0`, code OK (R72, R76). -/
def commit (s : State) (r : Regs) : Result :=
  .next { s with regs := r, rsp := ⟨0, .ok⟩ }

/-- `raise ContractViolation(code)` (R9, R200): the request ends with the code and writes nothing. A model faults
(R203; log entry 4). -/
def raise (f : Fault) : Result := .fault f

end Sys2Proof.Machine
end

