-- ==== Sys2Proof/Machine/Auxiliary.lean ====
section
/-! DEFINITION. The requests of the program counter, the multiply-result pair and the load-linked flag (R170 to R179). -/

namespace Sys2Proof.Machine

/-- PC_READ32 (R170): `rdata <- zext_64(pc[31:0])`. -/
def execPcRead32 (s : State) : Result :=
  answer s (zext64 (low32 s.regs.pc))

/-- PC_READ64 (R171): `rdata <- pc`. -/
def execPcRead64 (s : State) : Result :=
  answer s s.regs.pc

/-- PC_WRITE32 (R172): `pc <- pc[63:32] ++ v`. -/
def execPcWrite32 (v : Half) (s : State) : Result :=
  commit s (s.regs.writePc32 v)

/-- PC_WRITE64 (R173): `pc <- v`. -/
def execPcWrite64 (v : Word) (s : State) : Result :=
  commit s (s.regs.writePc v)

/-- MD_READ (R174): `rdata <- hilo[k]`. -/
def execMdRead (k : MdSel) (s : State) : Result :=
  answer s (s.regs.readMd k)

/-- MD_WRITE (R175): `hilo[k] <- v`. -/
def execMdWrite (k : MdSel) (v : Word) (s : State) : Result :=
  commit s (s.regs.writeMd k v)

/-- LL_READ (R176): `rdata <- zext_64(llbit)`. -/
def execLlRead (s : State) : Result :=
  answer s (zextBit s.regs.llbit)

/-- LL_WRITE (R177): `llbit <- b`. -/
def execLlWrite (b : Bool) (s : State) : Result :=
  commit s (s.regs.writeLl b)

end Sys2Proof.Machine
end

