-- ==== Sys2Proof/Machine/Cp0.lean ====
section
/-! DEFINITION. The CP0 requests (R150 to R156): `csr_regfile`, a passive store. No privilege check (R153), no action
(R154). -/

namespace Sys2Proof.Machine

/-- CP0_READ (R150): `rdata <- cp0[i]`. -/
def execCp0Read (i : Idx) (s : State) : Result :=
  answer s (s.regs.readCp0 i)

/-- CP0_WRITE (R151): `cp0[i] <- v`. At `STATUS_INDEX` this sets FR, which is read live (R152). -/
def execCp0Write (i : Idx) (v : Word) (s : State) : Result :=
  commit s (s.regs.writeCp0 i v)

end Sys2Proof.Machine
end

