-- ==== Sys2Proof/Machine/Flags.lean ====
section
/-! DEFINITION. The one bit the block interprets, FR (R29, R126), and the Status layout of R29 as metadata. The block
has no status flags and no condition codes, and no request sets a flag (R34), so there is no flag computation. -/

namespace Sys2Proof.Machine

/-- FR, read from the live Status cell at each use and kept nowhere else (R9, R35, R126). -/
def Regs.fr (cfg : Config) (r : Regs) : Bool :=
  (r.readCp0 cfg.statusIndex).getLsbD cfg.frBit.val

/-- The fields of Status (R29). Only FR has an effect inside the block; the rest are names for callers. -/
inductive StatusField where
  | ie
  | exl
  /-- The source writes "EXR" (C10). -/
  | erl
  | ksu
  | ux
  | sx
  | kx
  | im
  | ds
  | re
  | fr
  | rp
  | cu
deriving DecidableEq, Repr

/-- The low bit and the width of each field of Status (R29). PRESUMED by the spec (G3; log entry 5). -/
def statusFieldBits : StatusField → Nat × Nat
  | .ie  => (0, 1)
  | .exl => (1, 1)
  | .erl => (2, 1)
  | .ksu => (3, 2)
  | .ux  => (5, 1)
  | .sx  => (6, 1)
  | .kx  => (7, 1)
  | .im  => (8, 8)
  | .ds  => (16, 9)
  | .re  => (25, 1)
  | .fr  => (26, 1)
  | .rp  => (27, 1)
  | .cu  => (28, 4)

/-- The value of a Status field, as a number. No meaning reads it; FR's is `Regs.fr`. -/
def statusField (status : Word) (f : StatusField) : Nat :=
  status.toNat / 2 ^ (statusFieldBits f).1 % 2 ^ (statusFieldBits f).2

end Sys2Proof.Machine
end

