-- ==== Sys2Proof/Machine/Fpr.lean ====
section
/-! DEFINITION. The FPR requests (R120 to R134): `fpr_dual_mode_aliasing_logic`. The 64-bit access is written once
over the parameters of R7, so that the approximating variant (R130) is the same text. -/

namespace Sys2Proof.Machine

/-- The 64-bit value at index `i` in the current mode (R127). FR is read once, and decides the odd-index check too
(R126, R129). For an even `i` the successor `i + 1` does not wrap (R125). -/
def fprLoad64 (cfg : Config) (r : Regs) (i : Idx) : Except Fault Word :=
  if r.fr cfg then .ok (r.readFpr i)
  else if i.getLsbD 0 then .error .oddPair
  else match cfg.pairedSplit with
    | .exactSplit => .ok (join (low32 (r.readFpr (i + 1#5))) (low32 (r.readFpr i)))
    | .contiguous => .ok (r.readFpr i)

/-- The storage after a 64-bit write at index `i` in the current mode (R128): both halves of a paired write in the
same step (R55), the upper halves of both cells preserved (R131; D9, log entry 9). -/
def fprStore64 (cfg : Config) (r : Regs) (i : Idx) (v : Word) : Except Fault Regs :=
  if r.fr cfg then .ok (r.writeFpr i v)
  else if i.getLsbD 0 then .error .oddPair
  else match cfg.pairedSplit with
    | .exactSplit => .ok ((r.writeFpr32 i (low32 v)).writeFpr32 (i + 1#5) (high32 v))
    | .contiguous => .ok (r.writeFpr i v)

/-- FPR_READ64 under given parameters (R127). -/
def fprRead64With (cfg : Config) (i : Idx) (s : State) : Result :=
  match fprLoad64 cfg s.regs i with
  | .ok v => answer s v
  | .error f => raise f

/-- FPR_WRITE64 under given parameters (R128). -/
def fprWrite64With (cfg : Config) (i : Idx) (v : Word) (s : State) : Result :=
  match fprStore64 cfg s.regs i v with
  | .ok r => commit s r
  | .error f => raise f

/-- FPR_READ32 (R122): `rdata <- zext_64(fpr[i][31:0])`; FR is not read. -/
def execFprRead32 (i : Idx) (s : State) : Result :=
  answer s (zext64 (low32 (s.regs.readFpr i)))

/-- FPR_READ64 (R127). -/
def execFprRead64 (i : Idx) (s : State) : Result :=
  fprRead64With Config.hw i s

/-- FPR_WRITE32 (R123): `fpr[i] <- fpr[i][63:32] ++ v`; FR is not read. -/
def execFprWrite32 (i : Idx) (v : Half) (s : State) : Result :=
  commit s (s.regs.writeFpr32 i v)

/-- FPR_WRITE64 (R128). -/
def execFprWrite64 (i : Idx) (v : Word) (s : State) : Result :=
  fprWrite64With Config.hw i v s

end Sys2Proof.Machine
end

