-- ==== Sys2Proof/Machine/Gpr.lean ====
section
/-! DEFINITION. The GPR requests (R100 to R107): `gpr_dual_width_access` and `register_zero_suppression`. -/

namespace Sys2Proof.Machine

/-- GPR_READ32 (R101): `rdata <- zext_64(gpr[i][31:0])`. -/
def execGprRead32 (i : Idx) (s : State) : Result :=
  answer s (zext64 (low32 (s.regs.readGpr i)))

/-- GPR_READ64 (R102): `rdata <- gpr[i]`. -/
def execGprRead64 (i : Idx) (s : State) : Result :=
  answer s (s.regs.readGpr i)

/-- GPR_WRITE32 (R104): `gpr[i] <- gpr[i][63:32] ++ v` unless `i = 0` (R103). -/
def execGprWrite32 (i : Idx) (v : Half) (s : State) : Result :=
  commit s (s.regs.writeGpr32 i v)

/-- GPR_WRITE64 (R105): `gpr[i] <- v` unless `i = 0` (R103). -/
def execGprWrite64 (i : Idx) (v : Word) (s : State) : Result :=
  commit s (s.regs.writeGpr i v)

end Sys2Proof.Machine
end

