-- ==== Sys2Proof/Machine/Dispatch.lean ====
section
/-! DEFINITION. One arm per request (R74). -/

namespace Sys2Proof.Machine

def exec (i : Instr) (s : State) : Host.Outcome State Fault Refusal :=
  match i with
  | .gprRead32 r => Sys2Proof.Machine.execGprRead32 r s
  | .gprRead64 r => Sys2Proof.Machine.execGprRead64 r s
  | .gprWrite32 r v => Sys2Proof.Machine.execGprWrite32 r v s
  | .gprWrite64 r v => Sys2Proof.Machine.execGprWrite64 r v s
  | .fprRead32 r => Sys2Proof.Machine.execFprRead32 r s
  | .fprRead64 r => Sys2Proof.Machine.execFprRead64 r s
  | .fprWrite32 r v => Sys2Proof.Machine.execFprWrite32 r v s
  | .fprWrite64 r v => Sys2Proof.Machine.execFprWrite64 r v s
  | .cp0Read r => Sys2Proof.Machine.execCp0Read r s
  | .cp0Write r v => Sys2Proof.Machine.execCp0Write r v s
  | .pcRead32 => Sys2Proof.Machine.execPcRead32 s
  | .pcRead64 => Sys2Proof.Machine.execPcRead64 s
  | .pcWrite32 v => Sys2Proof.Machine.execPcWrite32 v s
  | .pcWrite64 v => Sys2Proof.Machine.execPcWrite64 v s
  | .mdRead k => Sys2Proof.Machine.execMdRead k s
  | .mdWrite k v => Sys2Proof.Machine.execMdWrite k v s
  | .llRead => Sys2Proof.Machine.execLlRead s
  | .llWrite b => Sys2Proof.Machine.execLlWrite b s

end Sys2Proof.Machine
end

