-- ==== Sys2Proof/WellFormed.lean ====
section
/-! DEFINITION. Which command words are defined requests (R74, R75) and which are reserved encodings (R77), said on
the number of the word (`cmd = op*32 + idx`, R74) and apart from the decoder, so that the two can be compared.
Every term of `Instr` is well formed by its types (R71, U4), so the checks are about the raw word. -/

namespace Sys2Proof

/-- The `op` values whose requests take any `idx` (formats IR and IW). -/
def indexedOps : List Nat := [0x00, 0x01, 0x02, 0x03, 0x04, 0x05, 0x06, 0x07, 0x09, 0x0B]

/-- The `op` values whose requests need `idx = 00000` (formats SR and SW). -/
def singleOps : List Nat := [0x0C, 0x0D, 0x0E, 0x0F, 0x14, 0x16]

/-- The `op` values whose requests need `idx[4:1] = 0000` (formats KR and KW). -/
def selectedOps : List Nat := [0x11, 0x13]

/-- Check 1: the `op` value is no reserved one (R77, first item). -/
def definedOp (c : Cmd) : Bool :=
  (indexedOps ++ singleOps ++ selectedOps).contains (c.toNat / 32)

/-- Check 2: a single-cell request names `idx = 0` (R75). -/
def singleIdxOk (c : Cmd) : Bool :=
  !singleOps.contains (c.toNat / 32) || c.toNat % 32 == 0

/-- Check 3: an HI/LO request has `idx[4:1] = 0` (R75). -/
def selectedIdxOk (c : Cmd) : Bool :=
  !selectedOps.contains (c.toNat / 32) || c.toNat % 32 / 2 == 0

/-- A command word that is no reserved encoding (R77). -/
def wellFormedCmd (c : Cmd) : Bool :=
  definedOp c && singleIdxOk c && selectedIdxOk c

end Sys2Proof
end

