-- ==== Sys2Proof/Decode.lean ====
section
/-! DEFINITION. The request decoder and encoder (R72 to R77), the opcode table as rows of mask and match, and the
numbering of a request as one word that spec/opcode_table.json uses. -/

namespace Sys2Proof

/-! ## Fields of the command word -/

/-- `req_cmd[9:5]` (R72). -/
def opOf (c : Cmd) : BitVec 5 := c.extractLsb' 5 5

/-- `req_cmd[4:0]` (R72). -/
def idxOf (c : Cmd) : Idx := c.extractLsb' 0 5

/-- `op[4:2]` as a target; 110 and 111 are reserved (R73). -/
def targetOf (op : BitVec 5) : Option Target :=
  match op.extractLsb' 2 3 with
  | 0b000#3 => some .gpr
  | 0b001#3 => some .fpr
  | 0b010#3 => some .cp0
  | 0b011#3 => some .pc
  | 0b100#3 => some .md
  | 0b101#3 => some .ll
  | _ => none

/-- `op[1]`: the request is a write (R73). -/
def opIsWrite (op : BitVec 5) : Bool := op.getLsbD 1

/-- `op[0]`: the request is 64 bits wide (R73). -/
def opIsWide (op : BitVec 5) : Bool := op.getLsbD 0

/-! ## Operand fields (R75, R76) -/

/-- SR and SW: the request is defined only with `idx = 00000`. -/
def single (i : Idx) (r : Instr) : Option Instr :=
  if i = 0 then some r else none

/-- The HI/LO select `k = idx[0]`: 0 is HI, 1 is LO. -/
def mdSelOf (i : Idx) : MdSel :=
  if i.getLsbD 0 then .lo else .hi

/-- KR and KW: the request is defined only with `idx[4:1] = 0000`. -/
def selected (i : Idx) (f : MdSel → Instr) : Option Instr :=
  if i.extractLsb' 1 4 = 0 then some (f (mdSelOf i)) else none

/-- Data of a 32-bit write: `req_wdata[31:0]`; `req_wdata[63:32]` is ignored. -/
def wdata32 (w : Word) : Half := w.extractLsb' 0 32

/-- Data of LL_WRITE: `req_wdata[0]`; `req_wdata[63:1]` is ignored. -/
def wdataBit (w : Word) : Bool := w.getLsbD 0

/-! ## The decoder -/

/-- The request map of R74, with the admitted `idx` values of R75 and the data assembly of R76. `none` is exactly a
reserved encoding (R77). -/
def decode (q : Request) : Option Instr :=
  let i := idxOf q.cmd
  match opOf q.cmd with
  | 0x00#5 => some (.gprRead32 i)
  | 0x01#5 => some (.gprRead64 i)
  | 0x02#5 => some (.gprWrite32 i (wdata32 q.wdata))
  | 0x03#5 => some (.gprWrite64 i q.wdata)
  | 0x04#5 => some (.fprRead32 i)
  | 0x05#5 => some (.fprRead64 i)
  | 0x06#5 => some (.fprWrite32 i (wdata32 q.wdata))
  | 0x07#5 => some (.fprWrite64 i q.wdata)
  | 0x09#5 => some (.cp0Read i)
  | 0x0B#5 => some (.cp0Write i q.wdata)
  | 0x0C#5 => single i .pcRead32
  | 0x0D#5 => single i .pcRead64
  | 0x0E#5 => single i (.pcWrite32 (wdata32 q.wdata))
  | 0x0F#5 => single i (.pcWrite64 q.wdata)
  | 0x11#5 => selected i .mdRead
  | 0x13#5 => selected i (fun k => .mdWrite k q.wdata)
  | 0x14#5 => single i .llRead
  | 0x16#5 => single i (.llWrite (wdataBit q.wdata))
  | _ => none

/-! ## The encoder -/

/-- `req_cmd = op ++ idx` (R72). -/
def cmdWord (op : BitVec 5) (i : Idx) : Cmd := op ++ i

/-- `idx = 0000k` (R75). -/
def mdIdx : MdSel → Idx
  | .hi => 0
  | .lo => 1

/-- Half-width write data on the 64-bit bus; the ignored bits 63:32 are sent as 0 (R76). -/
def busHalf (v : Half) : Word := v.setWidth 64

/-- The LL data bit on the 64-bit bus; the ignored bits 63:1 are sent as 0 (R76). -/
def busBit (b : Bool) : Word := (BitVec.ofBool b).setWidth 64

/-- The request that stands for an instruction (R74 to R76). A read sends 0 as the data it ignores. -/
def encode : Instr → Request
  | .gprRead32 i    => ⟨cmdWord 0x00 i, 0⟩
  | .gprRead64 i    => ⟨cmdWord 0x01 i, 0⟩
  | .gprWrite32 i v => ⟨cmdWord 0x02 i, busHalf v⟩
  | .gprWrite64 i v => ⟨cmdWord 0x03 i, v⟩
  | .fprRead32 i    => ⟨cmdWord 0x04 i, 0⟩
  | .fprRead64 i    => ⟨cmdWord 0x05 i, 0⟩
  | .fprWrite32 i v => ⟨cmdWord 0x06 i, busHalf v⟩
  | .fprWrite64 i v => ⟨cmdWord 0x07 i, v⟩
  | .cp0Read i      => ⟨cmdWord 0x09 i, 0⟩
  | .cp0Write i v   => ⟨cmdWord 0x0B i, v⟩
  | .pcRead32       => ⟨cmdWord 0x0C 0, 0⟩
  | .pcRead64       => ⟨cmdWord 0x0D 0, 0⟩
  | .pcWrite32 v    => ⟨cmdWord 0x0E 0, busHalf v⟩
  | .pcWrite64 v    => ⟨cmdWord 0x0F 0, v⟩
  | .mdRead k       => ⟨cmdWord 0x11 (mdIdx k), 0⟩
  | .mdWrite k v    => ⟨cmdWord 0x13 (mdIdx k), v⟩
  | .llRead         => ⟨cmdWord 0x14 0, 0⟩
  | .llWrite b      => ⟨cmdWord 0x16 0, busBit b⟩

/-! ## What R73 and R75 say of an instruction -/

/-- The target a request names (R73). -/
def targetOfInstr : Instr → Target
  | .gprRead32 _ | .gprRead64 _ | .gprWrite32 _ _ | .gprWrite64 _ _ => .gpr
  | .fprRead32 _ | .fprRead64 _ | .fprWrite32 _ _ | .fprWrite64 _ _ => .fpr
  | .cp0Read _ | .cp0Write _ _ => .cp0
  | .pcRead32 | .pcRead64 | .pcWrite32 _ | .pcWrite64 _ => .pc
  | .mdRead _ | .mdWrite _ _ => .md
  | .llRead | .llWrite _ => .ll

/-- The format of a request (R75). -/
def formatOfInstr : Instr → Format
  | .gprRead32 _ | .gprRead64 _ | .fprRead32 _ | .fprRead64 _ | .cp0Read _ => .ir
  | .gprWrite32 _ _ | .gprWrite64 _ _ | .fprWrite32 _ _ | .fprWrite64 _ _ | .cp0Write _ _ => .iw
  | .pcRead32 | .pcRead64 | .llRead => .sr
  | .pcWrite32 _ | .pcWrite64 _ | .llWrite _ => .sw
  | .mdRead _ => .kr
  | .mdWrite _ _ => .kw

/-- A request of a write format (R75). -/
def isWrite (i : Instr) : Bool :=
  match formatOfInstr i with
  | .iw | .sw | .kw => true
  | .ir | .sr | .kr => false

/-- A request of width 1, that is 64 bits; CP0 and MD have no other width, LL only width 0 (R73). -/
def isWide : Instr → Bool
  | .gprRead64 _ | .gprWrite64 _ _ | .fprRead64 _ | .fprWrite64 _ _ | .cp0Read _ | .cp0Write _ _ => true
  | .pcRead64 | .pcWrite64 _ | .mdRead _ | .mdWrite _ _ => true
  | .gprRead32 _ | .gprWrite32 _ _ | .fprRead32 _ | .fprWrite32 _ _ => false
  | .pcRead32 | .pcWrite32 _ | .llRead | .llWrite _ => false

/-- The mnemonic of a request (R74). -/
def mnemonic : Instr → String
  | .gprRead32 _    => "GPR_READ32"
  | .gprRead64 _    => "GPR_READ64"
  | .gprWrite32 _ _ => "GPR_WRITE32"
  | .gprWrite64 _ _ => "GPR_WRITE64"
  | .fprRead32 _    => "FPR_READ32"
  | .fprRead64 _    => "FPR_READ64"
  | .fprWrite32 _ _ => "FPR_WRITE32"
  | .fprWrite64 _ _ => "FPR_WRITE64"
  | .cp0Read _      => "CP0_READ"
  | .cp0Write _ _   => "CP0_WRITE"
  | .pcRead32       => "PC_READ32"
  | .pcRead64       => "PC_READ64"
  | .pcWrite32 _    => "PC_WRITE32"
  | .pcWrite64 _    => "PC_WRITE64"
  | .mdRead _       => "MD_READ"
  | .mdWrite _ _    => "MD_WRITE"
  | .llRead         => "LL_READ"
  | .llWrite _      => "LL_WRITE"

/-! ## The opcode table -/

/-- A row of spec/opcode_table.json: a command word belongs to it when its bits under `mask` are `value`. -/
structure OpRow where
  name   : String
  format : Format
  value  : Cmd
  mask   : Cmd
deriving DecidableEq, Repr

/-- The rows of spec/opcode_table.json, in its order. -/
def opcodeTable : List OpRow :=
  [⟨"GPR_READ32",  .ir, 0x000, 0x3E0⟩, ⟨"GPR_READ64",  .ir, 0x020, 0x3E0⟩,
   ⟨"GPR_WRITE32", .iw, 0x040, 0x3E0⟩, ⟨"GPR_WRITE64", .iw, 0x060, 0x3E0⟩,
   ⟨"FPR_READ32",  .ir, 0x080, 0x3E0⟩, ⟨"FPR_READ64",  .ir, 0x0A0, 0x3E0⟩,
   ⟨"FPR_WRITE32", .iw, 0x0C0, 0x3E0⟩, ⟨"FPR_WRITE64", .iw, 0x0E0, 0x3E0⟩,
   ⟨"CP0_READ",    .ir, 0x120, 0x3E0⟩, ⟨"CP0_WRITE",   .iw, 0x160, 0x3E0⟩,
   ⟨"PC_READ32",   .sr, 0x180, 0x3FF⟩, ⟨"PC_READ64",   .sr, 0x1A0, 0x3FF⟩,
   ⟨"PC_WRITE32",  .sw, 0x1C0, 0x3FF⟩, ⟨"PC_WRITE64",  .sw, 0x1E0, 0x3FF⟩,
   ⟨"MD_READ",     .kr, 0x220, 0x3FE⟩, ⟨"MD_WRITE",    .kw, 0x260, 0x3FE⟩,
   ⟨"LL_READ",     .sr, 0x280, 0x3FF⟩, ⟨"LL_WRITE",    .sw, 0x2C0, 0x3FF⟩]

/-- The row's bits are those of the command word. -/
def rowMatches (c : Cmd) (r : OpRow) : Bool := c &&& r.mask == r.value

/-! ## A request as one number -/

/-- The request whose bits are `w`: bits 9:0 are `req_cmd`, the first word, as the opcode table numbers them. The
second word, `req_wdata`, counts on from bit 10. DESIGN CHOICE (log entry 8): the table numbers the command word
only. -/
def requestOfNat (w : Nat) : Request :=
  ⟨BitVec.ofNat 10 w, BitVec.ofNat 64 (w / 2 ^ 10)⟩

/-- What the decoder reads from a request whose bits are `w`, the bits above `nbits` being 0. A request has 74 bits
(R79), so a number with a bit above them is no request. -/
def decodeTableWord (nbits w : Nat) : Option Instr :=
  let v := w % 2 ^ nbits
  if v < 2 ^ 74 then decode (requestOfNat v) else none

end Sys2Proof
end

