-- ==== Sys2Proof/Machine/Port.lean ====
section
/-! DEFINITION. The request port (R72): taking the step's input from the stream, the idle step (R78), presenting a
request, and what the port shows of a contract violation (R200). -/

namespace Sys2Proof.Machine

/-- The request of this step, if one is presented, and the machine past it. With `req_valid = 0` the request bits
are ignored (R78); past the end of the stream nothing is presented. -/
def fetch (s : State) : Option Request × State :=
  match s.input with
  | [] => (none, s)
  | p :: rest => (if p.valid then some p.req else none, { s with input := rest })

/-- The idle step (R78): no storage changes, and the response is a free value (U9; log entry 3). -/
def idle (s : State) : State :=
  { s with rsp := ⟨Config.idleRdata s.idles, Config.idleErr s.idles⟩, idles := s.idles + 1 }

/-- `q` presented in this step instead of what the stream held for it. -/
def replaceHead (s : State) (q : Request) : State :=
  { s with input := ⟨true, q⟩ :: s.input.tail }

/-- The two bits of `rsp_err` (R200). -/
def errBits : RspErr → BitVec 2
  | .ok => 0b00
  | .reservedEncoding => 0b01
  | .oddPair => 0b10

/-- The code of a violation. -/
def faultErr : Fault → RspErr
  | .reservedEncoding => .reservedEncoding
  | .oddPair => .oddPair

/-- What the port shows of a violation (R200): `rdata = 0` and the code, and no storage changes. -/
def violated (s : State) (f : Fault) : State :=
  { s with rsp := ⟨0, faultErr f⟩ }

end Sys2Proof.Machine
end

