-- ==== Sys2Proof/Machine/Step.lean ====
section
/-! DEFINITION. One step of the machine: at most one request, performed whole (R55, R72, R238). -/

namespace Sys2Proof.Machine

/-- A step takes the input of the port and performs the request, if one is presented; a reserved encoding is a
violation (R77); with no request the step is idle (R78). -/
def step (s : State) : Host.Outcome State Fault Refusal :=
  match fetch s with
  | (none, s') => .next (idle s')
  | (some q, s') =>
    match decode q with
    | some i => exec i s'
    | none => raise .reservedEncoding

/-- `s` with the request whose bits are `w`, the bits above `nbits` being 0, presented at the port in the next step
(log entry 1 says how requests come to be presented, log entry 8 how their bits are numbered). -/
def State.withFetchWord (s : State) (nbits w : Nat) : State :=
  replaceHead s (requestOfNat (w % 2 ^ nbits))

end Sys2Proof.Machine
end

