-- ==== Sys2Proof/Machine/Names.lean ====
section
/-! DEFINITION. The name tables and the textual form of a request (R26, R27, R80): read-only metadata for diagnostics.
No request reads them and no meaning depends on them (log entry 12). -/

namespace Sys2Proof.Machine

/-- The GPR names by index (R26): `v0` is the source's, the rest is PRESUMED by the spec (G4). -/
def gprNames : List String :=
  ["zero", "at", "v0", "v1", "a0", "a1", "a2", "a3",
   "t0", "t1", "t2", "t3", "t4", "t5", "t6", "t7",
   "s0", "s1", "s2", "s3", "s4", "s5", "s6", "s7",
   "t8", "t9", "k0", "k1", "gp", "sp", "s8", "ra"]

/-- The CP0 names by index (R27): the numbering is PRESUMED by the spec (G2). -/
def cp0Names : List String :=
  ["Index", "Random", "EntryLo0", "EntryLo1", "Context", "PageMask", "Wired", "Reserved7",
   "BadVAddr", "Count", "EntryHi", "Compare", "Status", "Cause", "EPC", "PRId",
   "Config", "LLAddr", "WatchLo", "WatchHi", "XContext", "Reserved21", "Reserved22", "Reserved23",
   "Reserved24", "Reserved25", "ParityError", "CacheError", "TagLo", "TagHi", "ErrorEPC", "Reserved31"]

/-- The spellings of a GPR operand: `r<n>`, and `$<abi-name>`; 30 has a second name (R26, R80). -/
def gprTexts (i : Idx) : List String :=
  ["r" ++ toString i.toNat, "$" ++ gprNames.getD i.toNat ""] ++ (if i = 30 then ["$fp"] else [])

/-- The spellings of a CP0 operand: `c<n>`, and the name (R80). -/
def cp0Texts (i : Idx) : List String :=
  ["c" ++ toString i.toNat, cp0Names.getD i.toNat ""]

/-- The spellings of a request's operand; none for PC and LL (R80). -/
def operandTexts : Instr → List String
  | .gprRead32 i | .gprRead64 i | .gprWrite32 i _ | .gprWrite64 i _ => gprTexts i
  | .fprRead32 i | .fprRead64 i | .fprWrite32 i _ | .fprWrite64 i _ => ["f" ++ toString i.toNat]
  | .cp0Read i | .cp0Write i _ => cp0Texts i
  | .mdRead .hi | .mdWrite .hi _ => ["HI"]
  | .mdRead .lo | .mdWrite .lo _ => ["LO"]
  | .pcRead32 | .pcRead64 | .pcWrite32 _ | .pcWrite64 _ | .llRead | .llWrite _ => []

/-- The textual forms `MNEMONIC operand[, data]` of a request (R80), for a spelling `data` of its write data, which
reads leave out. The rule fixes no number of digits, so the caller spells the literal. -/
def requestTexts (i : Instr) (data : String) : List String :=
  match operandTexts i, isWrite i with
  | [], false => [mnemonic i]
  | [], true  => [mnemonic i ++ " " ++ data]
  | os, false => os.map (fun o => mnemonic i ++ " " ++ o)
  | os, true  => os.map (fun o => mnemonic i ++ " " ++ o ++ ", " ++ data)

/-- The source's name of a request's accessor; the PC, multiply-pair and LL accessors have none (R80). -/
def sourceAccessor : Instr → Option String
  | .gprRead32 _    => some "read32"
  | .gprRead64 _    => some "read64"
  | .gprWrite32 _ _ => some "write32"
  | .gprWrite64 _ _ => some "write64"
  | .fprRead32 _    => some "readF32"
  | .fprRead64 _    => some "readF64"
  | .fprWrite32 _ _ => some "writeF32"
  | .fprWrite64 _ _ => some "writeF64"
  | .cp0Read _      => some "readControl"
  | .cp0Write _ _   => some "writeControl"
  | .pcRead32 | .pcRead64 | .pcWrite32 _ | .pcWrite64 _ => none
  | .mdRead _ | .mdWrite _ _ | .llRead | .llWrite _ => none

end Sys2Proof.Machine
end

