-- ==== Sys2Proof/Machine/PortView.lean ====
section
/-! DEFINITION. The block as the hardware at its port (R10, R200): a total function, on which a contract violation
completes in its step with its code and changes no storage. It is `step` with the violation's response put in the
place of the fault (R203; log entry 4). -/

namespace Sys2Proof.Machine

/-- One step as the port shows it. -/
def portStep (s : State) : State :=
  match step s with
  | .next t => t
  | .fault f => violated (fetch s).2 f
  | .refused _ => (fetch s).2

/-- `n` steps as the port shows them. -/
def portRun : Nat → State → State
  | 0, s => s
  | n + 1, s => portRun n (portStep s)

end Sys2Proof.Machine
end

