-- ==== Sys2Proof/Machine/Footprint.lean ====
section
/-! DEFINITION. The footprint of a request: which half cells it reads, and which it writes with what ("a request
reads or writes only the cells this file names for it", R56, R100, R120, R156, R179). It serves the sequential law of
R58 and the `UNKNOWN` reset policy (R232); no meaning uses it. -/

namespace Sys2Proof.Machine

/-- A storage element by name (R36). -/
inductive CellName where
  | gpr (i : Idx)
  | fpr (i : Idx)
  | cp0 (i : Idx)
  | pc
  | md (k : MdSel)
  | ll
deriving DecidableEq, Repr

/-- A half of a cell: bits 31:0, or bits 63:32. The flag has its one bit in its low half. -/
structure Part where
  cell  : CellName
  upper : Bool
deriving DecidableEq, Repr

/-- The low half of a cell. -/
def lowPart (c : CellName) : Part := ⟨c, false⟩

/-- The upper half of a cell. -/
def highPart (c : CellName) : Part := ⟨c, true⟩

/-- Both halves of a cell. -/
def wholeCell (c : CellName) : List Part := [lowPart c, highPart c]

/-- The half of a cell value that a part names. -/
def halfOf (v : Word) (upper : Bool) : Half :=
  if upper then high32 v else low32 v

/-- The contents of a part of the storage. -/
def Regs.part (r : Regs) (p : Part) : Half :=
  match p.cell with
  | .gpr i => halfOf (r.readGpr i) p.upper
  | .fpr i => halfOf (r.readFpr i) p.upper
  | .cp0 i => halfOf (r.readCp0 i) p.upper
  | .pc    => halfOf r.pc p.upper
  | .md k  => halfOf (r.readMd k) p.upper
  | .ll    => halfOf (zextBit r.llbit) p.upper

/-- The part that holds FR. -/
def frPart (cfg : Config) : Part :=
  ⟨.cp0 cfg.statusIndex, decide (32 ≤ cfg.frBit.val)⟩

/-- The FPR parts of a 64-bit access at index `i` in the current mode, low part of the value first (R124, R125,
R130); none for an odd index in paired mode (R129). -/
def fprParts64 (cfg : Config) (r : Regs) (i : Idx) : List Part :=
  if r.fr cfg then wholeCell (.fpr i)
  else if i.getLsbD 0 then []
  else match cfg.pairedSplit with
    | .exactSplit => [lowPart (.fpr i), lowPart (.fpr (i + 1#5))]
    | .contiguous => wholeCell (.fpr i)

/-- The parts a request reads. A write reads nothing: the half it preserves is not moved. The 64-bit FPR requests
read FR first (R126). -/
def readsOf (cfg : Config) (r : Regs) : Instr → List Part
  | .gprRead32 i    => [lowPart (.gpr i)]
  | .gprRead64 i    => wholeCell (.gpr i)
  | .fprRead32 i    => [lowPart (.fpr i)]
  | .fprRead64 i    => frPart cfg :: fprParts64 cfg r i
  | .fprWrite64 _ _ => [frPart cfg]
  | .cp0Read i      => wholeCell (.cp0 i)
  | .pcRead32       => [lowPart .pc]
  | .pcRead64       => wholeCell .pc
  | .mdRead k       => wholeCell (.md k)
  | .llRead         => [lowPart .ll]
  | .gprWrite32 _ _ | .gprWrite64 _ _ | .fprWrite32 _ _ | .cp0Write _ _ => []
  | .pcWrite32 _ | .pcWrite64 _ | .mdWrite _ _ | .llWrite _ => []

/-- Both halves of a cell with the halves of `v`. -/
def wholeWrite (c : CellName) (v : Word) : List (Part × Half) :=
  [(lowPart c, low32 v), (highPart c, high32 v)]

/-- The parts a request writes, each with what it writes there. -/
def writesOf (cfg : Config) (r : Regs) : Instr → List (Part × Half)
  | .gprWrite32 i v => if i = 0 then [] else [(lowPart (.gpr i), v)]
  | .gprWrite64 i v => if i = 0 then [] else wholeWrite (.gpr i) v
  | .fprWrite32 i v => [(lowPart (.fpr i), v)]
  | .fprWrite64 i v => (fprParts64 cfg r i).zip [low32 v, high32 v]
  | .cp0Write i v   => wholeWrite (.cp0 i) v
  | .pcWrite32 v    => [(lowPart .pc, v)]
  | .pcWrite64 v    => wholeWrite .pc v
  | .mdWrite k v    => wholeWrite (.md k) v
  | .llWrite b      => [(lowPart .ll, (BitVec.ofBool b).setWidth 32)]
  | .gprRead32 _ | .gprRead64 _ | .fprRead32 _ | .fprRead64 _ | .cp0Read _ => []
  | .pcRead32 | .pcRead64 | .mdRead _ | .llRead => []

/-- What a list of writes leaves in a part that held `old`. -/
def written (ws : List (Part × Half)) (p : Part) (old : Half) : Half :=
  (ws.lookup p).getD old

end Sys2Proof.Machine
end

