-- ==== Sys2Proof/Machine/Variant.lean ====
section
/-! DEFINITION. The machine under other parameter values of R7: the approximating paired layout (R130) and the reset
policy under which no cell has a known value (R232), and other places of FR (D11). This hardware is `Config.hw`, whose
machine is `step`; nothing here is used by `step`. -/

namespace Sys2Proof.Machine

/-- A request under given parameters: only the 64-bit FPR requests depend on them (R79). -/
def execWith (cfg : Config) (i : Instr) (s : State) : Result :=
  match i with
  | .fprRead64 r => fprRead64With cfg r s
  | .fprWrite64 r v => fprWrite64With cfg r v s
  | .gprRead32 _ | .gprRead64 _ | .gprWrite32 _ _ | .gprWrite64 _ _ => exec i s
  | .fprRead32 _ | .fprWrite32 _ _ | .cp0Read _ | .cp0Write _ _ => exec i s
  | .pcRead32 | .pcRead64 | .pcWrite32 _ | .pcWrite64 _ => exec i s
  | .mdRead _ | .mdWrite _ _ | .llRead | .llWrite _ => exec i s

/-- The machine with the record that `RESET_POLICY = UNKNOWN` needs. -/
structure VState where
  base    : State
  /-- The parts some request has written since reset. DESIGN CHOICE (log entry 7): the record is by half cell, the
  unit in which requests write, so that a half nothing has written is never read as a value. -/
  written : List Part
deriving DecidableEq, Repr

/-- Why a variant stops. -/
inductive VFault where
  /-- A contract violation, as in the machine itself (R203). Safe. -/
  | violation (f : Fault)
  /-- A read of a part that no request has written since reset, under `UNKNOWN` only (R232). Safe. -/
  | unwrittenRead (p : Part)
deriving DecidableEq, Repr

/-- Reset: the record is empty (R232). The stored values of `base` are then read by nothing under `UNKNOWN`. -/
def VState.reset : VState := ⟨State.reset, []⟩

/-- The first part of the list that is not in the record. -/
def firstUnwritten (known : List Part) (ps : List Part) : Option Part :=
  ps.find? (fun p => !known.contains p)

/-- The record with parts added, without repeats. -/
def record (known : List Part) : List Part → List Part
  | [] => known
  | p :: ps => record (if known.contains p then known else known ++ [p]) ps

/-- The part whose read stops the request under the reset policy, if any (R230, R232). -/
def blockedRead (cfg : Config) (v : VState) (r : Regs) (i : Instr) : Option Part :=
  match cfg.resetPolicy with
  | .zero => none
  | .unknown => firstUnwritten v.written (readsOf cfg r i)

/-- A request on the variant. -/
def vexec (cfg : Config) (i : Instr) (v : VState) : Host.Outcome VState VFault Refusal :=
  match blockedRead cfg v v.base.regs i with
  | some p => .fault (.unwrittenRead p)
  | none =>
    match execWith cfg i v.base with
    | .next t => .next ⟨t, record v.written ((writesOf cfg v.base.regs i).map Prod.fst)⟩
    | .fault f => .fault (.violation f)
    | .refused r => .refused r

/-- A step of the variant. -/
def vstep (cfg : Config) (v : VState) : Host.Outcome VState VFault Refusal :=
  match fetch v.base with
  | (none, s) => .next ⟨idle s, v.written⟩
  | (some q, s) =>
    match decode q with
    | some i => vexec cfg i ⟨s, v.written⟩
    | none => .fault (.violation .reservedEncoding)

end Sys2Proof.Machine
end

