-- ==== Sys2Proof/Safety.lean ====
section
/-! DEFINITION. What counts as a safe run, in the terms the statements use: the caller's contract (R201), the
invariant of the hard-wired register (R22), and runs without a violation (R203). -/

namespace Sys2Proof.Machine

/-- GPR 0 holds zero (R22). It is so after reset, and no request writes the cell. -/
def ZeroRegHolds (r : Regs) : Prop := r.readGpr 0 = 0

/-- The caller's contract for a request in a given mode (R201): the command word is no reserved encoding, and a
64-bit FPR request with FR = 0 names an even index. -/
def obeysContract (fr : Bool) (c : Cmd) : Bool :=
  wellFormedCmd c && (fr || !(opOf c == 0x05 || opOf c == 0x07) || !(idxOf c).getLsbD 0)

/-- The step violates no contract: idle, or a request that obeys it. -/
def safeStep (s : State) : Bool :=
  match (fetch s).1 with
  | none => true
  | some q => obeysContract (s.regs.fr Config.hw) q.cmd

/-- The machine answers `n` steps without a violation, ending in `t` (R203: a program that commits one has no end). -/
def RunsTo : Nat → State → State → Prop
  | 0, s, t => s = t
  | n + 1, s, t => ∃ u, step s = .next u ∧ RunsTo n u t

/-- Requests performed one after another, each on the state the one before it left (R58). -/
def performAll : List Instr → State → Result
  | [], s => .next s
  | i :: is, s =>
    match exec i s with
    | .next t => performAll is t
    | .fault f => .fault f
    | .refused r => .refused r

/-- What a sequence of requests leaves in a part that held `old`: the value of the last request that wrote it, else
`old` (R58 (a), (b)). Which cells a request writes is decided in the storage `r` it meets (R58 (c)). -/
def lastWritten : List Instr → State → Part → Half → Half
  | [], _, _, old => old
  | i :: is, s, p, old =>
    let now := written (writesOf Config.hw s.regs i) p old
    match exec i s with
    | .next t => lastWritten is t p now
    | .fault _ => now
    | .refused _ => now

end Sys2Proof.Machine
end

