-- ==== Sys2Proof/Certificates/Slice0/Obligations.lean ====
section
/-! DEFINITION. The statements for the provers. Values are written with the bit-vector operations of Lean, not with the
model's own views, so that a statement does not repeat the definition it is about. `fr Config.hw` is FR, that is
`cp0[STATUS_INDEX][FR_BIT]` (R9); the one statement that names the two parameters' values, 12 and 26, is
`StatusWriteSetsFrLive`. -/

open Sys2Proof Sys2Proof.Machine

/-! ## Encoding -/

/-- Decoding the encoding of any request gives it back, every operand at every value (R74 to R76). -/
def Obligations.EncodeThenDecode : Prop :=
  ∀ i : Instr, decode (encode i) = some i

/-- A command word has one meaning: the instruction decoded from it is encoded by that word again (R74, R75). -/
def Obligations.DecodedCommandIsEncoded : Prop :=
  ∀ (q : Request) (i : Instr), decode q = some i → (encode i).cmd = q.cmd

/-- R73: `op[4:2]` is the target, `op[1]` the direction, `op[0]` the width of the request that a command word decodes
to; the targets 110 and 111 decode to nothing; CP0 and MD have width 1 only, LL width 0 only. -/
def Obligations.OpSubfieldsGiveTargetDirectionWidth : Prop :=
  (∀ (q : Request) (i : Instr), decode q = some i →
    targetOf (opOf q.cmd) = some (targetOfInstr i) ∧
    (opOf q.cmd).getLsbD 1 = isWrite i ∧ (opOf q.cmd).getLsbD 0 = isWide i ∧
    (targetOfInstr i = .cp0 ∨ targetOfInstr i = .md → isWide i = true) ∧
    (targetOfInstr i = .ll → isWide i = false)) ∧
  (∀ q : Request, q.cmd.extractLsb' 8 2 = 0b11#2 → decode q = none) ∧
  (∀ c : Cmd, targetOf (opOf c) =
    [some .gpr, some .fpr, some .cp0, some .pc, some .md, some .ll, none, none][c.toNat / 128]!)

/-- Every command word lies in at most one row of the opcode table, and it decodes to the request of that row; where
no row takes it, it decodes to nothing (R74, R75). -/
def Obligations.OpcodeTableAgreesWithDecoder : Prop :=
  ∀ q : Request,
    (opcodeTable.filter (rowMatches q.cmd)).map (fun r => (r.name, r.format)) =
      (decode q).toList.map (fun i => (mnemonic i, formatOfInstr i))

/-- R77: which command words are reserved, and what the block does with a reserved one. Every other word is a defined
request. -/
def Obligations.ReservedEncodingsFault : Prop :=
  (∀ c : Cmd, wellFormedCmd c = false ↔
    (opOf c ∈ [0x08#5, 0x0A#5, 0x10#5, 0x12#5, 0x15#5, 0x17#5, 0x18#5, 0x19#5, 0x1A#5, 0x1B#5, 0x1C#5, 0x1D#5,
        0x1E#5, 0x1F#5] ∨
      (opOf c ∈ [0x0C#5, 0x0D#5, 0x0E#5, 0x0F#5, 0x14#5, 0x16#5] ∧ idxOf c ≠ 0) ∨
      (opOf c ∈ [0x11#5, 0x13#5] ∧ (idxOf c).extractLsb' 1 4 ≠ 0))) ∧
  (∀ q : Request, (decode q).isSome = wellFormedCmd q.cmd) ∧
  (∀ (s : State) (q : Request) (rest : List PortInput), s.input = ⟨true, q⟩ :: rest → wellFormedCmd q.cmd = false →
    step s = .fault .reservedEncoding ∧
    (portStep s).regs = s.regs ∧ (portStep s).rsp = ⟨0, .reservedEncoding⟩ ∧
    errBits .reservedEncoding = 0b01)

/-- R78: 330 of the 1024 command words are defined, and 694 are reserved. -/
def Obligations.DefinedWordCounts : Prop :=
  ((List.range 1024).filter (fun n => (decode ⟨BitVec.ofNat 10 n, 0⟩).isSome)).length = 330 ∧
  ((List.range 1024).filter (fun n => (decode ⟨BitVec.ofNat 10 n, 0⟩).isNone)).length = 694

/-- The worked encodings of R81, which the spec derives from R72 to R76, with their texts (R80). -/
def Obligations.WorkedEncodings : Prop :=
  (decode ⟨0x042, 0x00000000FFFFFFFF⟩ = some (.gprWrite32 2 0xFFFFFFFF) ∧
    "GPR_WRITE32 $v0, 0xFFFFFFFF" ∈ requestTexts (.gprWrite32 2 0xFFFFFFFF) "0xFFFFFFFF") ∧
  (∀ w, decode ⟨0x002, w⟩ = some (.gprRead32 2)) ∧ "GPR_READ32 $v0" ∈ requestTexts (.gprRead32 2) "" ∧
  (decode ⟨0x040, 0x0000000000001234⟩ = some (.gprWrite32 0 0x1234) ∧
    "GPR_WRITE32 r0, 0x1234" ∈ requestTexts (.gprWrite32 0 0x1234) "0x1234") ∧
  (decode ⟨0x16C, 0x0000000004000000⟩ = some (.cp0Write 12 0x04000000) ∧
    "CP0_WRITE Status, 0x04000000" ∈ requestTexts (.cp0Write 12 0x04000000) "0x04000000") ∧
  (decode ⟨0x0E4, 0x3FF0000000000000⟩ = some (.fprWrite64 4 0x3FF0000000000000) ∧
    "FPR_WRITE64 f4, 0x3FF0000000000000" ∈ requestTexts (.fprWrite64 4 0x3FF0000000000000) "0x3FF0000000000000") ∧
  (∀ w, decode ⟨0x0A4, w⟩ = some (.fprRead64 4)) ∧ "FPR_READ64 f4" ∈ requestTexts (.fprRead64 4) "" ∧
  (∀ w, decode ⟨0x084, w⟩ = some (.fprRead32 4)) ∧ "FPR_READ32 f4" ∈ requestTexts (.fprRead32 4) "" ∧
  (∀ w, decode ⟨0x221, w⟩ = some (.mdRead .lo)) ∧ "MD_READ LO" ∈ requestTexts (.mdRead .lo) "" ∧
  (decode ⟨0x2C0, 0x0000000000000001⟩ = some (.llWrite true) ∧ "LL_WRITE 1" ∈ requestTexts (.llWrite true) "1")

/-- R75, R76: the data bits a request ignores do not reach it: all of them for a read, bits 63:32 for a 32-bit write,
bits 63:1 for LL_WRITE. -/
def Obligations.IgnoredDataBitsDoNotDecode : Prop :=
  ∀ (c : Cmd) (w w' : Word),
    (c.getLsbD 6 = false → decode ⟨c, w⟩ = decode ⟨c, w'⟩) ∧
    (c.getLsbD 5 = false → w.extractLsb' 0 32 = w'.extractLsb' 0 32 → decode ⟨c, w⟩ = decode ⟨c, w'⟩) ∧
    (opOf c = 0x16 → w.getLsbD 0 = w'.getLsbD 0 → decode ⟨c, w⟩ = decode ⟨c, w'⟩)

/-! ## The step -/

/-- A presented request that decodes runs as that instruction, on the state past the presented input (R55, R72). -/
def Obligations.StepRunsTheDecodedRequest : Prop :=
  ∀ (s : State) (q : Request) (rest : List PortInput) (i : Instr),
    s.input = ⟨true, q⟩ :: rest → decode q = some i → step s = exec i { s with input := rest }

/-- An idle step (`req_valid = 0`, or nothing presented) always completes, changes no storage, and ignores the request
bits (R78). Nothing is said of its response, which the spec leaves undefined. -/
def Obligations.IdleStepChangesNoStorage : Prop :=
  ∀ s : State,
    (s.input = [] → ∃ t, step s = .next t ∧ t.regs = s.regs ∧ t.input = []) ∧
    (∀ (q : Request) (rest : List PortInput), s.input = ⟨false, q⟩ :: rest →
      (∃ t, step s = .next t ∧ t.regs = s.regs ∧ t.input = rest) ∧
      ∀ q' : Request, step { s with input := ⟨false, q'⟩ :: rest } = step s)

/-- A step answers a next state exactly when the caller keeps the contract, and it never ends in a refusal
(R201, R203, R206). -/
def Obligations.StepCompletesExactlyOnContract : Prop :=
  ∀ s : State, ((∃ t, step s = .next t) ↔ safeStep s = true) ∧ ∀ r, step s ≠ .refused r

/-- R201: the causes of each code, and that a violation records nothing: no cell changes. The sentence of R201 that the
spec itself derives is `OnlyPairedMode64BitFprRequestsViolate`. -/
def Obligations.ViolationCauses : Prop :=
  (∀ s : State, step s = .fault .reservedEncoding ↔
    ∃ (q : Request) (rest : List PortInput), s.input = ⟨true, q⟩ :: rest ∧
      (opOf q.cmd ∈ [0x08#5, 0x0A#5, 0x10#5, 0x12#5, 0x15#5, 0x17#5, 0x18#5, 0x19#5, 0x1A#5, 0x1B#5, 0x1C#5,
          0x1D#5, 0x1E#5, 0x1F#5] ∨
        (opOf q.cmd ∈ [0x0C#5, 0x0D#5, 0x0E#5, 0x0F#5, 0x14#5, 0x16#5] ∧ idxOf q.cmd ≠ 0) ∨
        (opOf q.cmd ∈ [0x11#5, 0x13#5] ∧ (idxOf q.cmd).extractLsb' 1 4 ≠ 0))) ∧
  (∀ s : State, step s = .fault .oddPair ↔
    ∃ (q : Request) (rest : List PortInput), s.input = ⟨true, q⟩ :: rest ∧
      (opOf q.cmd = 0x05 ∨ opOf q.cmd = 0x07) ∧
      s.regs.fr Config.hw = false ∧ (idxOf q.cmd).getLsbD 0 = true) ∧
  (∀ (s : State) (f : Fault), step s = .fault f → (portStep s).regs = s.regs)

/-- The last sentence of R201, which the spec derives from R100, R120, R150 and R151: a decoded request that raises a
code is a 64-bit FPR request with FR = 0, so no GPR, 32-bit FPR, CP0 or direct-mode 64-bit FPR request raises any. -/
def Obligations.OnlyPairedMode64BitFprRequestsViolate : Prop :=
  ∀ (i : Instr) (s : State) (f : Fault), exec i s = .fault f →
    targetOfInstr i = .fpr ∧ isWide i = true ∧ s.regs.fr Config.hw = false

/-- The model's choice of log entry 4: in the port's view the violating request counts as presented, so the stream
moves past it, and nothing else changes but the response, which R200 gives. -/
def Obligations.ViolatingRequestIsUsedUp : Prop :=
  ∀ (s : State) (q : Request) (rest : List PortInput) (f : Fault), s.input = ⟨true, q⟩ :: rest →
    step s = .fault f → portStep s = { s with input := rest, rsp := ⟨0, faultErr f⟩ }

/-- R200, and R205, which the spec derives from it: a request either completes with OK, or it writes nothing and
answers `rdata = 0` with its code, in the same step; the codes are 00, 01 and 10, and 11 is never driven. -/
def Obligations.RequestCompletesOrWritesNothing : Prop :=
  (∀ (s : State) (q : Request) (rest : List PortInput), s.input = ⟨true, q⟩ :: rest →
    (∃ t, step s = .next t ∧ portStep s = t ∧ t.rsp.err = .ok) ∨
    (∃ f, step s = .fault f ∧ (portStep s).regs = s.regs ∧ (portStep s).rsp = ⟨0, faultErr f⟩)) ∧
  faultErr .reservedEncoding = .reservedEncoding ∧ faultErr .oddPair = .oddPair ∧
  errBits .ok = 0b00 ∧ errBits .reservedEncoding = 0b01 ∧ errBits .oddPair = 0b10 ∧ ∀ e, errBits e ≠ 0b11

/-- At most one code can apply (R204, which the spec derives from R201). RESERVED_ENCODING is decided from `req_cmd`
alone; the requests that can raise ODD_PAIR are FPR_READ64 and FPR_WRITE64, whose encodings are never reserved. -/
def Obligations.ErrorCausesExcludeEachOther : Prop :=
  (∀ (c : Cmd) (w w' : Word), decode ⟨c, w⟩ = none → decode ⟨c, w'⟩ = none) ∧
  (∀ (c : Cmd) (w : Word), opOf c = 0x05 ∨ opOf c = 0x07 → decode ⟨c, w⟩ ≠ none) ∧
  (∀ (i : Instr) (s : State) (f : Fault), exec i s = .fault f →
    f = .oddPair ∧ ((∃ r, i = .fprRead64 r) ∨ ∃ r v, i = .fprWrite64 r v))

/-! ## Reset and the hard-wired register -/

/-- R230: every cell is 0 after reset and `llbit` is false. What the spec derives there from these values is
`ResetIsPairedAndZeroRegisterStays`. -/
def Obligations.ResetLeavesEveryCellZero : Prop :=
  (∀ i : Idx, State.reset.regs.readGpr i = 0 ∧ State.reset.regs.readFpr i = 0 ∧ State.reset.regs.readCp0 i = 0) ∧
  State.reset.regs.pc = 0 ∧ State.reset.regs.readMd .hi = 0 ∧ State.reset.regs.readMd .lo = 0 ∧
  State.reset.regs.llbit = false

/-- What R230 derives from the reset values with R29 and R103: after reset FR = 0 (paired mode), and GPR 0 reads 0 in
every later state, whatever requests are presented. -/
def Obligations.ResetIsPairedAndZeroRegisterStays : Prop :=
  State.reset.regs.fr Config.hw = false ∧
  ∀ (n : Nat) (inputs : List PortInput) (t : State),
    RunsTo n { State.reset with input := inputs } t →
      t.regs.readGpr 0 = 0 ∧
      exec (.gprRead32 0) t = .next { t with rsp := ⟨0, .ok⟩ } ∧
      exec (.gprRead64 0) t = .next { t with rsp := ⟨0, .ok⟩ }

/-- GPR 0 holds zero at reset (R22, R230). -/
def Obligations.ZeroRegisterHoldsAtReset : Prop :=
  ZeroRegHolds State.reset.regs

/-- Every step keeps GPR 0 at zero, from every state where it is zero (R22, R103). -/
def Obligations.ZeroRegisterKeptByEveryStep : Prop :=
  ∀ s t : State, ZeroRegHolds s.regs → step s = .next t → ZeroRegHolds t.regs

/-! ## General-purpose registers -/

/-- R101: GPR_READ32. -/
def Obligations.GprRead32Result : Prop :=
  ∀ (i : Idx) (s : State),
    (∀ w, decode ⟨0x000 + i.setWidth 10, w⟩ = some (.gprRead32 i)) ∧
    exec (.gprRead32 i) s =
      .next { s with rsp := ⟨((s.regs.readGpr i).extractLsb' 0 32).setWidth 64, .ok⟩ } ∧
    (ZeroRegHolds s.regs → exec (.gprRead32 0) s = .next { s with rsp := ⟨0, .ok⟩ })

/-- R102: GPR_READ64, also after a GPR_WRITE32 to the same index. -/
def Obligations.GprRead64Result : Prop :=
  ∀ (i : Idx) (s : State),
    (∀ w, decode ⟨0x020 + i.setWidth 10, w⟩ = some (.gprRead64 i)) ∧
    exec (.gprRead64 i) s = .next { s with rsp := ⟨s.regs.readGpr i, .ok⟩ } ∧
    (i ≠ 0 → ∀ v : Half, ∃ t, exec (.gprWrite32 i v) s = .next t ∧
      exec (.gprRead64 i) t = .next { t with rsp := ⟨(s.regs.readGpr i).extractLsb' 32 32 ++ v, .ok⟩ })

/-- R104: GPR_WRITE32. Nothing but `gpr[i]` and the response changes; at index 0 no cell changes. -/
def Obligations.GprWrite32Result : Prop :=
  ∀ (i : Idx) (v : Half) (s : State),
    (∀ w, decode ⟨0x040 + i.setWidth 10, w⟩ = some (.gprWrite32 i (w.extractLsb' 0 32))) ∧
    (i ≠ 0 → ∃ g : Bank,
      exec (.gprWrite32 i v) s = .next { s with regs := { s.regs with gpr := g }, rsp := ⟨0, .ok⟩ } ∧
      cellAt g i = (s.regs.readGpr i).extractLsb' 32 32 ++ v ∧ ∀ j, j ≠ i → cellAt g j = s.regs.readGpr j) ∧
    exec (.gprWrite32 0 v) s = .next { s with rsp := ⟨0, .ok⟩ }

/-- R105: GPR_WRITE64. Nothing but `gpr[i]` and the response changes; at index 0 no cell changes; a later GPR_READ32
sees the low half. -/
def Obligations.GprWrite64Result : Prop :=
  ∀ (i : Idx) (v : Word) (s : State),
    (∀ w, decode ⟨0x060 + i.setWidth 10, w⟩ = some (.gprWrite64 i w)) ∧
    (i ≠ 0 → ∃ g : Bank,
      exec (.gprWrite64 i v) s = .next { s with regs := { s.regs with gpr := g }, rsp := ⟨0, .ok⟩ } ∧
      cellAt g i = v ∧ (∀ j, j ≠ i → cellAt g j = s.regs.readGpr j) ∧
      ∀ t : State, t.regs.gpr = g →
        exec (.gprRead32 i) t = .next { t with rsp := ⟨(v.extractLsb' 0 32).setWidth 64, .ok⟩ }) ∧
    exec (.gprWrite64 0 v) s = .next { s with rsp := ⟨0, .ok⟩ }

/-- R103: a GPR write is a no-op exactly at index 0, where it still completes with OK; a read of index 0 returns the
cell; the FPR bank, the CP0 bank and `pc` have no such rule. -/
def Obligations.RegisterZeroSuppression : Prop :=
  ∀ (s : State) (i : Idx) (v : Word) (h : Half),
    exec (.gprWrite32 0 h) s = .next { s with rsp := ⟨0, .ok⟩ } ∧
    exec (.gprWrite64 0 v) s = .next { s with rsp := ⟨0, .ok⟩ } ∧
    (i ≠ 0 → ∃ t, exec (.gprWrite64 i v) s = .next t ∧ t.regs.readGpr i = v) ∧
    (i ≠ 0 → ∃ t, exec (.gprWrite32 i h) s = .next t ∧ (t.regs.readGpr i).extractLsb' 0 32 = h) ∧
    exec (.gprRead64 0) s = .next { s with rsp := ⟨s.regs.readGpr 0, .ok⟩ } ∧
    (∃ t, exec (.fprWrite32 0 h) s = .next t ∧ (t.regs.readFpr 0).extractLsb' 0 32 = h) ∧
    (∃ t, exec (.fprWrite64 0 v) s = .next t ∧ (t.regs.readFpr 0).extractLsb' 0 32 = v.extractLsb' 0 32) ∧
    (∃ t, exec (.cp0Write 0 v) s = .next t ∧ t.regs.readCp0 0 = v) ∧
    (∃ t, exec (.pcWrite64 v) s = .next t ∧ t.regs.pc = v) ∧
    (∃ t, exec (.pcWrite32 h) s = .next t ∧ t.regs.pc.extractLsb' 0 32 = h)

/-- The GPR laws (a), (b) and (c) of R107, which the spec derives from R101 to R105. -/
def Obligations.GprWriteThenReadLaws : Prop :=
  ∀ (s : State) (i : Idx) (v : Word) (h : Half),
    (i ≠ 0 → ∃ t, exec (.gprWrite32 i h) s = .next t ∧
      exec (.gprRead32 i) t = .next { t with rsp := ⟨h.setWidth 64, .ok⟩ }) ∧
    (i ≠ 0 → ∃ t, exec (.gprWrite64 i v) s = .next t ∧
      exec (.gprRead64 i) t = .next { t with rsp := ⟨v, .ok⟩ }) ∧
    (∀ t, exec (.gprWrite32 0 h) s = .next t ∨ exec (.gprWrite64 0 v) s = .next t → t.regs = s.regs) ∧
    (∀ t, exec (.gprWrite32 i h) s = .next t ∨ exec (.gprWrite64 i v) s = .next t →
      (∀ j, j ≠ i → t.regs.readGpr j = s.regs.readGpr j) ∧ t.regs.fpr = s.regs.fpr ∧ t.regs.cp0 = s.regs.cp0 ∧
      t.regs.pc = s.regs.pc ∧ t.regs.hi = s.regs.hi ∧ t.regs.lo = s.regs.lo ∧ t.regs.llbit = s.regs.llbit)

/-! ## Floating-point registers -/

/-- R122: FPR_READ32, the same in both modes; at an odd index in paired mode it is the high half of the pair below. -/
def Obligations.FprRead32Result : Prop :=
  ∀ (i : Idx) (s : State),
    (∀ w, decode ⟨0x080 + i.setWidth 10, w⟩ = some (.fprRead32 i)) ∧
    exec (.fprRead32 i) s =
      .next { s with rsp := ⟨((s.regs.readFpr i).extractLsb' 0 32).setWidth 64, .ok⟩ } ∧
    (s.regs.fr Config.hw = false → i.getLsbD 0 = true →
      ∃ t, exec (.fprRead64 (i - 1)) s = .next t ∧
        t.rsp.rdata.extractLsb' 32 32 = (s.regs.readFpr i).extractLsb' 0 32)

/-- R123: FPR_WRITE32, the same in both modes. Nothing but the low half of `fpr[i]` and the response changes. -/
def Obligations.FprWrite32Result : Prop :=
  ∀ (i : Idx) (v : Half) (s : State),
    (∀ w, decode ⟨0x0C0 + i.setWidth 10, w⟩ = some (.fprWrite32 i (w.extractLsb' 0 32))) ∧
    ∃ f : Bank,
      exec (.fprWrite32 i v) s = .next { s with regs := { s.regs with fpr := f }, rsp := ⟨0, .ok⟩ } ∧
      cellAt f i = (s.regs.readFpr i).extractLsb' 32 32 ++ v ∧ ∀ j, j ≠ i → cellAt f j = s.regs.readFpr j

/-- R127: FPR_READ64 in direct mode, in paired mode at an even index under both layouts, and at an odd index. -/
def Obligations.FprRead64Result : Prop :=
  ∀ (i : Idx) (s : State),
    (∀ w, decode ⟨0x0A0 + i.setWidth 10, w⟩ = some (.fprRead64 i)) ∧
    (s.regs.fr Config.hw = true →
      exec (.fprRead64 i) s = .next { s with rsp := ⟨s.regs.readFpr i, .ok⟩ } ∧
      execWith { Config.hw with pairedSplit := .contiguous } (.fprRead64 i) s =
        .next { s with rsp := ⟨s.regs.readFpr i, .ok⟩ }) ∧
    (s.regs.fr Config.hw = false → i.getLsbD 0 = false →
      exec (.fprRead64 i) s = .next { s with
        rsp := ⟨(s.regs.readFpr (i + 1)).extractLsb' 0 32 ++ (s.regs.readFpr i).extractLsb' 0 32, .ok⟩ } ∧
      execWith { Config.hw with pairedSplit := .contiguous } (.fprRead64 i) s =
        .next { s with rsp := ⟨s.regs.readFpr i, .ok⟩ }) ∧
    (s.regs.fr Config.hw = false → i.getLsbD 0 = true →
      exec (.fprRead64 i) s = .fault .oddPair ∧
      execWith { Config.hw with pairedSplit := .contiguous } (.fprRead64 i) s = .fault .oddPair)

/-- R128: FPR_WRITE64 in direct mode, in paired mode at an even index under both layouts, and at an odd index. Both
halves of a paired write land in the one step; nothing but the named cells and the response changes. -/
def Obligations.FprWrite64Result : Prop :=
  ∀ (i : Idx) (v : Word) (s : State),
    (∀ w, decode ⟨0x0E0 + i.setWidth 10, w⟩ = some (.fprWrite64 i w)) ∧
    (s.regs.fr Config.hw = true → ∃ f : Bank,
      exec (.fprWrite64 i v) s = .next { s with regs := { s.regs with fpr := f }, rsp := ⟨0, .ok⟩ } ∧
      cellAt f i = v ∧ ∀ j, j ≠ i → cellAt f j = s.regs.readFpr j) ∧
    (s.regs.fr Config.hw = false → i.getLsbD 0 = false → ∃ f : Bank,
      exec (.fprWrite64 i v) s = .next { s with regs := { s.regs with fpr := f }, rsp := ⟨0, .ok⟩ } ∧
      cellAt f i = (s.regs.readFpr i).extractLsb' 32 32 ++ v.extractLsb' 0 32 ∧
      cellAt f (i + 1) = (s.regs.readFpr (i + 1)).extractLsb' 32 32 ++ v.extractLsb' 32 32 ∧
      ∀ j, j ≠ i → j ≠ i + 1 → cellAt f j = s.regs.readFpr j) ∧
    (s.regs.fr Config.hw = true ∨ i.getLsbD 0 = false → ∃ f : Bank,
      execWith { Config.hw with pairedSplit := .contiguous } (.fprWrite64 i v) s =
        .next { s with regs := { s.regs with fpr := f }, rsp := ⟨0, .ok⟩ } ∧
      cellAt f i = v ∧ ∀ j, j ≠ i → cellAt f j = s.regs.readFpr j) ∧
    (s.regs.fr Config.hw = false → i.getLsbD 0 = true →
      exec (.fprWrite64 i v) s = .fault .oddPair ∧
      execWith { Config.hw with pairedSplit := .contiguous } (.fprWrite64 i v) s = .fault .oddPair)

/-- R129: an odd index in paired mode is ODD_PAIR for both 64-bit requests, under both layouts, index 31 included; the
port shows `rdata = 0` and code 10, and no cell changes. -/
def Obligations.OddIndexInPairedModeForbidden : Prop :=
  ∀ (s : State) (i : Idx) (v : Word), s.regs.fr Config.hw = false → i.getLsbD 0 = true →
    (∀ split : PairedSplit,
      execWith { Config.hw with pairedSplit := split } (.fprRead64 i) s = .fault .oddPair ∧
      execWith { Config.hw with pairedSplit := split } (.fprWrite64 i v) s = .fault .oddPair) ∧
    exec (.fprRead64 i) s = .fault .oddPair ∧ exec (.fprWrite64 i v) s = .fault .oddPair ∧
    (∀ (q : Request) (rest : List PortInput), s.input = ⟨true, q⟩ :: rest →
      decode q = some (.fprRead64 i) ∨ decode q = some (.fprWrite64 i v) →
      step s = .fault .oddPair ∧ (portStep s).regs = s.regs ∧ (portStep s).rsp = ⟨0, .oddPair⟩ ∧
      errBits .oddPair = 0b10)

/-- R130: this hardware takes EXACT; under CONTIGUOUS a paired-mode 64-bit request at an even index behaves exactly as
the direct-mode request, and law (b) of R132 fails. -/
def Obligations.ContiguousVariantActsDirect : Prop :=
  Config.hw.pairedSplit = .exactSplit ∧
  (∀ (i : Idx) (v : Word) (s : State), i.getLsbD 0 = false → s.regs.fr Config.hw = false →
    execWith { Config.hw with pairedSplit := .contiguous } (.fprRead64 i) s =
      .next { s with rsp := ⟨s.regs.readFpr i, .ok⟩ } ∧
    ∃ f : Bank, execWith { Config.hw with pairedSplit := .contiguous } (.fprWrite64 i v) s =
        .next { s with regs := { s.regs with fpr := f }, rsp := ⟨0, .ok⟩ } ∧
      cellAt f i = v ∧ ∀ j, j ≠ i → cellAt f j = s.regs.readFpr j) ∧
  (∃ (s t : State) (i : Idx) (v : Word), s.regs.fr Config.hw = false ∧ i.getLsbD 0 = false ∧
    execWith { Config.hw with pairedSplit := .contiguous } (.fprWrite64 i v) s = .next t ∧
    exec (.fprRead32 (i + 1)) t ≠ .next { t with rsp := ⟨(v.extractLsb' 32 32).setWidth 64, .ok⟩ })

/-- R131: a paired write keeps the upper halves of all cells, and only a direct-mode FPR_READ64 can observe them: two
states that differ in nothing but upper halves of FPR cells answer every other request alike. -/
def Obligations.UpperHalvesOnlySeenDirect : Prop :=
  (∀ (i : Idx) (v : Word) (s t : State), s.regs.fr Config.hw = false →
    exec (.fprWrite64 i v) s = .next t →
    ∀ j, (t.regs.readFpr j).extractLsb' 32 32 = (s.regs.readFpr j).extractLsb' 32 32) ∧
  (∀ (s : State) (f : Bank) (i : Instr),
    (∀ j, (cellAt f j).extractLsb' 0 32 = (s.regs.readFpr j).extractLsb' 0 32) →
    (s.regs.fr Config.hw = false ∨ ∀ r, i ≠ .fprRead64 r) →
    (∀ t, exec i s = .next t → ∃ u, exec i { s with regs := { s.regs with fpr := f } } = .next u ∧ u.rsp = t.rsp) ∧
    (∀ e, exec i s = .fault e → exec i { s with regs := { s.regs with fpr := f } } = .fault e))

/-- The FPR laws (a) to (d) of R132, which the spec derives from R122 to R131. -/
def Obligations.FprModeLaws : Prop :=
  ∀ (s : State) (i : Idx) (v : Word) (w : Half),
    (s.regs.fr Config.hw = true → ∃ t, exec (.fprWrite64 i v) s = .next t ∧
      exec (.fprRead64 i) t = .next { t with rsp := ⟨v, .ok⟩ }) ∧
    (s.regs.fr Config.hw = false → i.getLsbD 0 = false → ∃ t, exec (.fprWrite64 i v) s = .next t ∧
      exec (.fprRead32 i) t = .next { t with rsp := ⟨(v.extractLsb' 0 32).setWidth 64, .ok⟩ } ∧
      exec (.fprRead32 (i + 1)) t = .next { t with rsp := ⟨(v.extractLsb' 32 32).setWidth 64, .ok⟩ } ∧
      exec (.fprRead64 i) t = .next { t with rsp := ⟨v, .ok⟩ }) ∧
    (∃ t, exec (.fprWrite32 i w) s = .next t ∧
      exec (.fprRead32 i) t = .next { t with rsp := ⟨w.setWidth 64, .ok⟩ }) ∧
    (∀ st : Word, s.regs.fr Config.hw = true → i.getLsbD 0 = false → st.getLsbD Config.hw.frBit = false →
      ∃ t u, exec (.fprWrite64 i v) s = .next t ∧ exec (.cp0Write Config.hw.statusIndex st) t = .next u ∧
        exec (.fprRead64 i) u =
          .next { u with rsp := ⟨(s.regs.readFpr (i + 1)).extractLsb' 0 32 ++ v.extractLsb' 0 32, .ok⟩ } ∧
        ((s.regs.readFpr (i + 1)).extractLsb' 0 32 ++ v.extractLsb' 0 32 = v ↔
          (s.regs.readFpr (i + 1)).extractLsb' 0 32 = v.extractLsb' 32 32)) ∧
    (∀ st : Word, s.regs.fr Config.hw = false → i.getLsbD 0 = false → st.getLsbD Config.hw.frBit = true →
      ∃ t u, exec (.fprWrite64 i v) s = .next t ∧ exec (.cp0Write Config.hw.statusIndex st) t = .next u ∧
        exec (.fprRead64 i) u =
          .next { u with rsp := ⟨(s.regs.readFpr i).extractLsb' 32 32 ++ v.extractLsb' 0 32, .ok⟩ })

/-- R134: no FPR request changes any CP0 cell, and FR changes only by a CP0_WRITE to `STATUS_INDEX`. -/
def Obligations.FrChangesOnlyByStatusWrite : Prop :=
  (∀ (i : Instr) (s t : State), targetOfInstr i = .fpr → exec i s = .next t → t.regs.cp0 = s.regs.cp0) ∧
  (∀ (s t : State), step s = .next t → t.regs.fr Config.hw ≠ s.regs.fr Config.hw →
    ∃ (q : Request) (rest : List PortInput) (v : Word),
      s.input = ⟨true, q⟩ :: rest ∧ decode q = some (.cp0Write Config.hw.statusIndex v))

/-! ## Control registers -/

/-- R150: CP0_READ, at every index. -/
def Obligations.Cp0ReadResult : Prop :=
  ∀ (i : Idx) (s : State),
    (∀ w, decode ⟨0x120 + i.setWidth 10, w⟩ = some (.cp0Read i)) ∧
    exec (.cp0Read i) s = .next { s with rsp := ⟨s.regs.readCp0 i, .ok⟩ }

/-- R151: CP0_WRITE, all 64 bits at every index. Nothing but `cp0[i]` and the response changes. -/
def Obligations.Cp0WriteResult : Prop :=
  ∀ (i : Idx) (v : Word) (s : State),
    (∀ w, decode ⟨0x160 + i.setWidth 10, w⟩ = some (.cp0Write i w)) ∧
    ∃ c : Bank,
      exec (.cp0Write i v) s = .next { s with regs := { s.regs with cp0 := c }, rsp := ⟨0, .ok⟩ } ∧
      cellAt c i = v ∧ ∀ j, j ≠ i → cellAt c j = s.regs.readCp0 j

/-- A write of Status sets FR to `v[26]`, which the next 64-bit FPR request sees, and moves no FPR cell (R152, which
the spec derives from R151 and R126). That Status is index 12 and FR its bit 26 is PRESUMED (log entry 5). -/
def Obligations.StatusWriteSetsFrLive : Prop :=
  ∀ (s : State) (v : Word), ∃ t, exec (.cp0Write 12 v) s = .next t ∧
    t.regs.readCp0 12 = v ∧ t.regs.fr Config.hw = v.getLsbD 26 ∧ t.regs.fpr = s.regs.fpr ∧
    t.regs.gpr = s.regs.gpr ∧ t.regs.pc = s.regs.pc ∧ t.regs.hi = s.regs.hi ∧ t.regs.lo = s.regs.lo ∧
    t.regs.llbit = s.regs.llbit ∧ (∀ j, j ≠ 12 → t.regs.readCp0 j = s.regs.readCp0 j) ∧
    (∀ i : Idx, v.getLsbD 26 = true →
      exec (.fprRead64 i) t = .next { t with rsp := ⟨s.regs.readFpr i, .ok⟩ } ∧
      ∀ d : Word, ∃ u, exec (.fprWrite64 i d) t = .next u ∧ u.regs.readFpr i = d) ∧
    (∀ i : Idx, v.getLsbD 26 = false → i.getLsbD 0 = false →
      exec (.fprRead64 i) t = .next { t with
        rsp := ⟨(s.regs.readFpr (i + 1)).extractLsb' 0 32 ++ (s.regs.readFpr i).extractLsb' 0 32, .ok⟩ } ∧
      ∀ d : Word, ∃ u, exec (.fprWrite64 i d) t = .next u ∧
        u.regs.readFpr i = (s.regs.readFpr i).extractLsb' 32 32 ++ d.extractLsb' 0 32 ∧
        u.regs.readFpr (i + 1) = (s.regs.readFpr (i + 1)).extractLsb' 32 32 ++ d.extractLsb' 32 32) ∧
    (∀ i : Idx, v.getLsbD 26 = false → i.getLsbD 0 = true → ∀ d : Word,
      exec (.fprRead64 i) t = .fault .oddPair ∧ exec (.fprWrite64 i d) t = .fault .oddPair)

/-- The CP0 round trip and its frame (R156, which the spec derives from R150 and R151). -/
def Obligations.Cp0RoundTrip : Prop :=
  ∀ (s : State) (i : Idx) (v : Word), ∃ t, exec (.cp0Write i v) s = .next t ∧
    exec (.cp0Read i) t = .next { t with rsp := ⟨v, .ok⟩ } ∧
    (∀ j, j ≠ i → t.regs.readCp0 j = s.regs.readCp0 j) ∧ t.regs.gpr = s.regs.gpr ∧ t.regs.fpr = s.regs.fpr ∧
    t.regs.pc = s.regs.pc ∧ t.regs.hi = s.regs.hi ∧ t.regs.lo = s.regs.lo ∧ t.regs.llbit = s.regs.llbit

/-- The CP0 bank is a passive store but for FR (R29, R30, R153, R154, R220): two states that differ only in CP0, with
the same FR, answer every request but a CP0 read alike, and change all other storage alike; and what a request leaves
in CP0 differs only where it differed before. -/
def Obligations.Cp0IsPassiveButForFr : Prop :=
  ∀ (s : State) (c : Bank) (i : Instr),
    (cellAt c Config.hw.statusIndex).getLsbD Config.hw.frBit = s.regs.fr Config.hw → (∀ r, i ≠ .cp0Read r) →
    (∀ t, exec i s = .next t → ∃ u, exec i { s with regs := { s.regs with cp0 := c } } = .next u ∧
      u = { t with regs := { t.regs with cp0 := u.regs.cp0 } } ∧
      ∀ j, u.regs.readCp0 j = t.regs.readCp0 j ∨
        (u.regs.readCp0 j = cellAt c j ∧ t.regs.readCp0 j = s.regs.readCp0 j)) ∧
    (∀ f, exec i s = .fault f → exec i { s with regs := { s.regs with cp0 := c } } = .fault f)

/-! ## Program counter, multiply-result pair, load-linked flag -/

/-- R170, R171: PC_READ32 and PC_READ64. -/
def Obligations.PcReadResults : Prop :=
  ∀ (s : State) (w : Word),
    decode ⟨0x180, w⟩ = some .pcRead32 ∧ decode ⟨0x1A0, w⟩ = some .pcRead64 ∧
    (∀ c : Cmd, opOf c = 0x0C ∨ opOf c = 0x0D → idxOf c ≠ 0 → decode ⟨c, w⟩ = none) ∧
    exec .pcRead32 s = .next { s with rsp := ⟨(s.regs.pc.extractLsb' 0 32).setWidth 64, .ok⟩ } ∧
    exec .pcRead64 s = .next { s with rsp := ⟨s.regs.pc, .ok⟩ }

/-- R172, R173: PC_WRITE32 and PC_WRITE64. Any value is stored as given; nothing but `pc` and the response changes. -/
def Obligations.PcWriteResults : Prop :=
  ∀ (s : State) (h : Half) (v w : Word),
    decode ⟨0x1C0, w⟩ = some (.pcWrite32 (w.extractLsb' 0 32)) ∧ decode ⟨0x1E0, w⟩ = some (.pcWrite64 w) ∧
    (∀ c : Cmd, opOf c = 0x0E ∨ opOf c = 0x0F → idxOf c ≠ 0 → decode ⟨c, w⟩ = none) ∧
    exec (.pcWrite32 h) s =
      .next { s with regs := { s.regs with pc := s.regs.pc.extractLsb' 32 32 ++ h }, rsp := ⟨0, .ok⟩ } ∧
    exec (.pcWrite64 v) s = .next { s with regs := { s.regs with pc := v }, rsp := ⟨0, .ok⟩ }

/-- R174, R175: MD_READ and MD_WRITE. HI is `k = 0`, LO is `k = 1`; a write of one half leaves the other. -/
def Obligations.MdResults : Prop :=
  ∀ (s : State) (v w : Word),
    decode ⟨0x220, w⟩ = some (.mdRead .hi) ∧ decode ⟨0x221, w⟩ = some (.mdRead .lo) ∧
    decode ⟨0x260, w⟩ = some (.mdWrite .hi w) ∧ decode ⟨0x261, w⟩ = some (.mdWrite .lo w) ∧
    (∀ c : Cmd, opOf c = 0x11 ∨ opOf c = 0x13 → (idxOf c).extractLsb' 1 4 ≠ 0 → decode ⟨c, w⟩ = none) ∧
    exec (.mdRead .hi) s = .next { s with rsp := ⟨s.regs.hi, .ok⟩ } ∧
    exec (.mdRead .lo) s = .next { s with rsp := ⟨s.regs.lo, .ok⟩ } ∧
    exec (.mdWrite .hi v) s = .next { s with regs := { s.regs with hi := v }, rsp := ⟨0, .ok⟩ } ∧
    exec (.mdWrite .lo v) s = .next { s with regs := { s.regs with lo := v }, rsp := ⟨0, .ok⟩ }

/-- R176, R177: LL_READ and LL_WRITE, and that no other event changes the flag. -/
def Obligations.LlResults : Prop :=
  ∀ (s : State) (b : Bool) (w : Word),
    decode ⟨0x280, w⟩ = some .llRead ∧ decode ⟨0x2C0, w⟩ = some (.llWrite (w.getLsbD 0)) ∧
    (∀ c : Cmd, opOf c = 0x14 ∨ opOf c = 0x16 → idxOf c ≠ 0 → decode ⟨c, w⟩ = none) ∧
    exec .llRead s = .next { s with rsp := ⟨if s.regs.llbit then 1 else 0, .ok⟩ } ∧
    exec (.llWrite b) s = .next { s with regs := { s.regs with llbit := b }, rsp := ⟨0, .ok⟩ } ∧
    (∀ t : State, step s = .next t → t.regs.llbit ≠ s.regs.llbit →
      ∃ (q : Request) (rest : List PortInput),
        s.input = ⟨true, q⟩ :: rest ∧ decode q = some (.llWrite t.regs.llbit))

/-- The auxiliary round trips of R179, which the spec derives from R170 to R177, and that no auxiliary request changes
a GPR, FPR or CP0 cell. -/
def Obligations.AuxiliaryRoundTrips : Prop :=
  ∀ (s : State) (v : Word) (h : Half) (b : Bool),
    (∃ t, exec (.pcWrite64 v) s = .next t ∧ exec .pcRead64 t = .next { t with rsp := ⟨v, .ok⟩ }) ∧
    (∃ t, exec (.pcWrite32 h) s = .next t ∧ exec .pcRead32 t = .next { t with rsp := ⟨h.setWidth 64, .ok⟩ }) ∧
    (∀ k k' : MdSel, ∃ t, exec (.mdWrite k v) s = .next t ∧
      exec (.mdRead k) t = .next { t with rsp := ⟨v, .ok⟩ } ∧
      (k' ≠ k → t.regs.readMd k' = s.regs.readMd k')) ∧
    (∃ t, exec (.llWrite b) s = .next t ∧
      exec .llRead t = .next { t with rsp := ⟨if b then 1 else 0, .ok⟩ }) ∧
    (∀ (i : Instr) (t : State), targetOfInstr i = .pc ∨ targetOfInstr i = .md ∨ targetOfInstr i = .ll →
      exec i s = .next t → t.regs.gpr = s.regs.gpr ∧ t.regs.fpr = s.regs.fpr ∧ t.regs.cp0 = s.regs.cp0)

/-! ## The whole machine -/

/-- A read leaves every cell, the stream and the count of idle steps as they are (R56). -/
def Obligations.ReadsChangeOnlyTheResponse : Prop :=
  ∀ (i : Instr) (s t : State), isWrite i = false → exec i s = .next t → t = { s with rsp := t.rsp }

/-- R56: no request has an effect beyond the cells it names, and every request is idempotent: performed again at once
it leaves the same machine and gives the same response. -/
def Obligations.RequestsAreIdempotent : Prop :=
  ∀ (i : Instr) (s t : State), exec i s = .next t → exec i t = .next t

/-- R36, R233: each storage element changes only by the requests the summary names for it, and `gpr[0]` by none. -/
def Obligations.OnlyNamedWritesChangeACell : Prop :=
  ∀ (i : Instr) (s t : State), exec i s = .next t →
    (∀ j, t.regs.readGpr j ≠ s.regs.readGpr j → j ≠ 0 ∧ ((∃ v, i = .gprWrite32 j v) ∨ ∃ v, i = .gprWrite64 j v)) ∧
    (∀ j, t.regs.readFpr j ≠ s.regs.readFpr j →
      (∃ v, i = .fprWrite32 j v) ∨ (∃ v, i = .fprWrite64 j v) ∨
      ∃ e v, i = .fprWrite64 e v ∧ e + 1 = j ∧ e.getLsbD 0 = false ∧ s.regs.fr Config.hw = false) ∧
    (∀ j, t.regs.readCp0 j ≠ s.regs.readCp0 j → ∃ v, i = .cp0Write j v) ∧
    (t.regs.pc ≠ s.regs.pc → (∃ v, i = .pcWrite32 v) ∨ ∃ v, i = .pcWrite64 v) ∧
    (∀ k, t.regs.readMd k ≠ s.regs.readMd k → ∃ v, i = .mdWrite k v) ∧
    (t.regs.llbit ≠ s.regs.llbit → ∃ b, i = .llWrite b) ∧
    t.input = s.input ∧ t.idles = s.idles

/-- A request writes exactly its footprint: every half cell holds afterwards what the footprint writes there, and
otherwise what it held (R56, R100, R120, R131). -/
def Obligations.RequestWritesExactlyItsFootprint : Prop :=
  ∀ (i : Instr) (s t : State), exec i s = .next t →
    ∀ p : Part, t.regs.part p = written (writesOf Config.hw s.regs i) p (s.regs.part p)

/-- A request sees nothing but its footprint: two machines that agree on the parts it reads give the same response or
the same fault (R56, R100, R120). -/
def Obligations.RequestReadsOnlyItsFootprint : Prop :=
  ∀ (i : Instr) (s u : State),
    (∀ p, p ∈ readsOf Config.hw s.regs i → u.regs.part p = s.regs.part p) →
    (∀ t, exec i s = .next t → ∃ t', exec i u = .next t' ∧ t'.rsp = t.rsp) ∧
    (∀ f, exec i s = .fault f → exec i u = .fault f)

/-- R58 (a) to (d): after any sequence of requests, every half cell holds the value of the last request that wrote it,
or what it held before where none did, a change of FR deciding the layout of the requests after it. -/
def Obligations.SequenceLeavesLastWrittenValues : Prop :=
  ∀ (is : List Instr) (s t : State), performAll is s = .next t →
    ∀ p : Part, t.regs.part p = lastWritten is s p (s.regs.part p)

/-- A request stream performs as the sequence of its requests: with the encodings of `is` presented, the steps answer
what `performAll` leaves (R58, R236). -/
def Obligations.StreamPerformsItsRequestsInOrder : Prop :=
  ∀ (is : List Instr) (s t : State) (rest : List PortInput),
    s.input = is.map (fun i => ⟨true, encode i⟩) ++ rest →
    (performAll is { s with input := rest } = .next t ↔ RunsTo is.length s t)

/-! ## Other parameter values -/

/-- The machine with this hardware's parameter values is the machine of `step` (R7). -/
def Obligations.VariantAtHwIsTheMachine : Prop :=
  ∀ v : VState,
    (∀ t, step v.base = .next t → ∃ ps, vstep Config.hw v = .next ⟨t, ps⟩) ∧
    (∀ f, step v.base = .fault f → vstep Config.hw v = .fault (.violation f))

/-- R232: under UNKNOWN a request that reads a part nothing has written since reset faults; GPR 0 is never written, so
every read of it faults in every state reached from reset. -/
def Obligations.UnknownResetReadsFault : Prop :=
  Config.hw.resetPolicy = .zero ∧ ∀ cfg : Config, cfg.resetPolicy = .unknown →
    (∀ (v : VState) (i : Instr) (p : Part), p ∈ readsOf cfg v.base.regs i → p ∉ v.written →
      ∃ p', p' ∉ v.written ∧ vexec cfg i v = .fault (.unwrittenRead p')) ∧
    (VState.reset.written = []) ∧
    (∀ v v' : VState, (∀ b, (⟨.gpr 0, b⟩ : Part) ∉ v.written) → vstep cfg v = .next v' →
      ∀ b, (⟨.gpr 0, b⟩ : Part) ∉ v'.written) ∧
    (∀ v : VState, (∀ b, (⟨.gpr 0, b⟩ : Part) ∉ v.written) →
      (∃ p, vexec cfg (.gprRead32 0) v = .fault (.unwrittenRead p)) ∧
      ∃ p, vexec cfg (.gprRead64 0) v = .fault (.unwrittenRead p))

/-- Under UNKNOWN no step depends on what the storage holds where nothing has written since reset (R232): two machines
that agree on the written parts step alike and agree again. -/
def Obligations.UnknownResetHidesStoredValues : Prop :=
  ∀ (cfg : Config) (v u : VState), cfg.resetPolicy = .unknown →
    u.written = v.written → u.base.input = v.base.input → u.base.idles = v.base.idles →
    (∀ p, p ∈ v.written → u.base.regs.part p = v.base.regs.part p) →
    (∀ v', vstep cfg v = .next v' → ∃ u', vstep cfg u = .next u' ∧ u'.written = v'.written ∧
      u'.base.input = v'.base.input ∧ u'.base.idles = v'.base.idles ∧ u'.base.rsp = v'.base.rsp ∧
      ∀ p, p ∈ v'.written → u'.base.regs.part p = v'.base.regs.part p) ∧
    (∀ f, vstep cfg v = .fault f → vstep cfg u = .fault f)

/-! ## Views -/

/-- R8, R21, R51: bytes 0 to 3 of a cell are its 32-bit view and bytes 4 to 7 the other half, lowest byte first; the
cell is its two halves, and an extended view has an upper half of 0. -/
def Obligations.ViewsAreLittleEndianBytes : Prop :=
  ∀ v : Word,
    (∀ k : Fin 8, byteOf v k =
      if k.val < 4 then (low32 v).extractLsb' (8 * k.val) 8 else (high32 v).extractLsb' (8 * (k.val - 4)) 8) ∧
    join (high32 v) (low32 v) = v ∧ high32 (zext64 (low32 v)) = 0 ∧ low32 (zext64 (low32 v)) = low32 v
end

