-- ==== Sys2Proof/Laws/Decode.lean ====
section
/-! SUPPORT. The fields of a command word and of the data bus, taken apart and put together again. -/

namespace Sys2Proof

@[simp] theorem opOf_cmdWord (o : BitVec 5) (i : Idx) : opOf (cmdWord o i) = o := by
  revert o i; decide

@[simp] theorem idxOf_cmdWord (o : BitVec 5) (i : Idx) : idxOf (cmdWord o i) = i := by
  revert o i; decide

/-- A command word is its `op` and its `idx` (R72). -/
theorem cmdWord_op_idx (c : Cmd) : cmdWord (opOf c) (idxOf c) = c := by
  revert c; decide

@[simp] theorem wdata32_busHalf (v : Half) : wdata32 (busHalf v) = v := by
  ext k hk; simp [wdata32, busHalf, hk, show k < 64 by omega]

@[simp] theorem wdataBit_busBit (b : Bool) : wdataBit (busBit b) = b := by
  cases b <;> decide

@[simp] theorem mdSelOf_mdIdx (k : MdSel) : mdSelOf (mdIdx k) = k := by
  cases k <;> decide

/-- The `idx` values a selected request admits are those of HI and LO (R75). -/
theorem mdIdx_mdSelOf (i : Idx) (h : i.extractLsb' 1 4 = 0#4) : mdIdx (mdSelOf i) = i := by
  revert i; decide

theorem single_eq_some {i : Idx} {r x : Instr} : single i r = some x ↔ i = 0 ∧ r = x := by
  unfold single; split <;> simp_all

theorem selected_eq_some {i : Idx} {f : MdSel → Instr} {x : Instr} :
    selected i f = some x ↔ i.extractLsb' 1 4 = 0#4 ∧ f (mdSelOf i) = x := by
  unfold selected; split <;> simp_all

end Sys2Proof
end

