-- ==== Sys2Proof/Laws/State.lean ====
section
/-! SUPPORT. One lemma per field per update: what each write of a cell, each end of a request and each port operation
leaves in every other field. -/

namespace Sys2Proof.Machine

/-! ## Writes of the storage -/

@[simp] theorem Regs.writeGpr_zero (r : Regs) (v : Word) : r.writeGpr 0#5 v = r := rfl

theorem Regs.writeGpr_of_ne {i : Idx} (h : i ≠ 0#5) (r : Regs) (v : Word) :
    r.writeGpr i v = { r with gpr := setCell r.gpr i v } := if_neg h

@[simp] theorem Regs.writeGpr_fpr (r : Regs) (i : Idx) (v : Word) : (r.writeGpr i v).fpr = r.fpr := by
  unfold Regs.writeGpr; split <;> rfl
@[simp] theorem Regs.writeGpr_cp0 (r : Regs) (i : Idx) (v : Word) : (r.writeGpr i v).cp0 = r.cp0 := by
  unfold Regs.writeGpr; split <;> rfl
@[simp] theorem Regs.writeGpr_pc (r : Regs) (i : Idx) (v : Word) : (r.writeGpr i v).pc = r.pc := by
  unfold Regs.writeGpr; split <;> rfl
@[simp] theorem Regs.writeGpr_hi (r : Regs) (i : Idx) (v : Word) : (r.writeGpr i v).hi = r.hi := by
  unfold Regs.writeGpr; split <;> rfl
@[simp] theorem Regs.writeGpr_lo (r : Regs) (i : Idx) (v : Word) : (r.writeGpr i v).lo = r.lo := by
  unfold Regs.writeGpr; split <;> rfl
@[simp] theorem Regs.writeGpr_llbit (r : Regs) (i : Idx) (v : Word) : (r.writeGpr i v).llbit = r.llbit := by
  unfold Regs.writeGpr; split <;> rfl

@[simp] theorem Regs.writeFpr_gpr (r : Regs) (i : Idx) (v : Word) : (r.writeFpr i v).gpr = r.gpr := rfl
@[simp] theorem Regs.writeFpr_fpr (r : Regs) (i : Idx) (v : Word) : (r.writeFpr i v).fpr = setCell r.fpr i v := rfl
@[simp] theorem Regs.writeFpr_cp0 (r : Regs) (i : Idx) (v : Word) : (r.writeFpr i v).cp0 = r.cp0 := rfl
@[simp] theorem Regs.writeFpr_pc (r : Regs) (i : Idx) (v : Word) : (r.writeFpr i v).pc = r.pc := rfl
@[simp] theorem Regs.writeFpr_hi (r : Regs) (i : Idx) (v : Word) : (r.writeFpr i v).hi = r.hi := rfl
@[simp] theorem Regs.writeFpr_lo (r : Regs) (i : Idx) (v : Word) : (r.writeFpr i v).lo = r.lo := rfl
@[simp] theorem Regs.writeFpr_llbit (r : Regs) (i : Idx) (v : Word) : (r.writeFpr i v).llbit = r.llbit := rfl

@[simp] theorem Regs.writeCp0_gpr (r : Regs) (i : Idx) (v : Word) : (r.writeCp0 i v).gpr = r.gpr := rfl
@[simp] theorem Regs.writeCp0_fpr (r : Regs) (i : Idx) (v : Word) : (r.writeCp0 i v).fpr = r.fpr := rfl
@[simp] theorem Regs.writeCp0_cp0 (r : Regs) (i : Idx) (v : Word) : (r.writeCp0 i v).cp0 = setCell r.cp0 i v := rfl
@[simp] theorem Regs.writeCp0_pc (r : Regs) (i : Idx) (v : Word) : (r.writeCp0 i v).pc = r.pc := rfl
@[simp] theorem Regs.writeCp0_hi (r : Regs) (i : Idx) (v : Word) : (r.writeCp0 i v).hi = r.hi := rfl
@[simp] theorem Regs.writeCp0_lo (r : Regs) (i : Idx) (v : Word) : (r.writeCp0 i v).lo = r.lo := rfl
@[simp] theorem Regs.writeCp0_llbit (r : Regs) (i : Idx) (v : Word) : (r.writeCp0 i v).llbit = r.llbit := rfl

@[simp] theorem Regs.writePc_gpr (r : Regs) (v : Word) : (r.writePc v).gpr = r.gpr := rfl
@[simp] theorem Regs.writePc_fpr (r : Regs) (v : Word) : (r.writePc v).fpr = r.fpr := rfl
@[simp] theorem Regs.writePc_cp0 (r : Regs) (v : Word) : (r.writePc v).cp0 = r.cp0 := rfl
@[simp] theorem Regs.writePc_pc (r : Regs) (v : Word) : (r.writePc v).pc = v := rfl
@[simp] theorem Regs.writePc_hi (r : Regs) (v : Word) : (r.writePc v).hi = r.hi := rfl
@[simp] theorem Regs.writePc_lo (r : Regs) (v : Word) : (r.writePc v).lo = r.lo := rfl
@[simp] theorem Regs.writePc_llbit (r : Regs) (v : Word) : (r.writePc v).llbit = r.llbit := rfl

@[simp] theorem Regs.writeMd_gpr (r : Regs) (k : MdSel) (v : Word) : (r.writeMd k v).gpr = r.gpr := by cases k <;> rfl
@[simp] theorem Regs.writeMd_fpr (r : Regs) (k : MdSel) (v : Word) : (r.writeMd k v).fpr = r.fpr := by cases k <;> rfl
@[simp] theorem Regs.writeMd_cp0 (r : Regs) (k : MdSel) (v : Word) : (r.writeMd k v).cp0 = r.cp0 := by cases k <;> rfl
@[simp] theorem Regs.writeMd_pc (r : Regs) (k : MdSel) (v : Word) : (r.writeMd k v).pc = r.pc := by cases k <;> rfl
@[simp] theorem Regs.writeMd_llbit (r : Regs) (k : MdSel) (v : Word) : (r.writeMd k v).llbit = r.llbit := by
  cases k <;> rfl

@[simp] theorem Regs.writeLl_gpr (r : Regs) (b : Bool) : (r.writeLl b).gpr = r.gpr := rfl
@[simp] theorem Regs.writeLl_fpr (r : Regs) (b : Bool) : (r.writeLl b).fpr = r.fpr := rfl
@[simp] theorem Regs.writeLl_cp0 (r : Regs) (b : Bool) : (r.writeLl b).cp0 = r.cp0 := rfl
@[simp] theorem Regs.writeLl_pc (r : Regs) (b : Bool) : (r.writeLl b).pc = r.pc := rfl
@[simp] theorem Regs.writeLl_hi (r : Regs) (b : Bool) : (r.writeLl b).hi = r.hi := rfl
@[simp] theorem Regs.writeLl_lo (r : Regs) (b : Bool) : (r.writeLl b).lo = r.lo := rfl
@[simp] theorem Regs.writeLl_llbit (r : Regs) (b : Bool) : (r.writeLl b).llbit = b := rfl

/-! ## The port -/

@[simp] theorem idle_regs (s : State) : (idle s).regs = s.regs := rfl
@[simp] theorem idle_input (s : State) : (idle s).input = s.input := rfl
@[simp] theorem idle_idles (s : State) : (idle s).idles = s.idles + 1 := rfl
@[simp] theorem violated_regs (s : State) (f : Fault) : (violated s f).regs = s.regs := rfl
@[simp] theorem violated_input (s : State) (f : Fault) : (violated s f).input = s.input := rfl
@[simp] theorem violated_idles (s : State) (f : Fault) : (violated s f).idles = s.idles := rfl
@[simp] theorem replaceHead_regs (s : State) (q : Request) : (replaceHead s q).regs = s.regs := rfl
@[simp] theorem replaceHead_rsp (s : State) (q : Request) : (replaceHead s q).rsp = s.rsp := rfl
@[simp] theorem replaceHead_idles (s : State) (q : Request) : (replaceHead s q).idles = s.idles := rfl

end Sys2Proof.Machine
end

