-- ==== Sys2Proof/Laws/Ops.lean ====
section
/-! SUPPORT. What each shared operation does, said once: banks, views, accessors, the 64-bit FPR access, the ends of a
request. -/

namespace Sys2Proof.Machine

/-! ## Banks -/

@[simp] theorem cellAt_setCell_self (b : Bank) (i : Idx) (v : Word) : cellAt (setCell b i v) i = v := by
  simp [cellAt, setCell]

theorem cellAt_setCell_of_ne (b : Bank) {i j : Idx} (h : j ≠ i) (v : Word) :
    cellAt (setCell b i v) j = cellAt b j := by
  have hne : i.toNat ≠ j.toNat := fun e => h (BitVec.eq_of_toNat_eq e.symm)
  simp [cellAt, setCell, hne]

theorem cellAt_setCell (b : Bank) (i j : Idx) (v : Word) :
    cellAt (setCell b i v) j = if j = i then v else cellAt b j := by
  split
  next h => rw [h, cellAt_setCell_self]
  next h => exact cellAt_setCell_of_ne b h v

@[simp] theorem cellAt_zero (i : Idx) : cellAt Bank.zero i = 0 := by
  simp [cellAt, Bank.zero]

/-! ## Views -/

theorem join_ext {v w : Word} (hl : low32 v = low32 w) (hh : high32 v = high32 w) : v = w := by
  ext k hk
  by_cases h : k < 32
  · have := congrArg (fun x => x.getLsbD k) hl
    simpa [low32, h, BitVec.getLsbD_eq_getElem hk] using this
  · have := congrArg (fun x => x.getLsbD (k - 32)) hh
    have hlt : k - 32 < 32 := by omega
    have hk' : 32 + (k - 32) = k := by omega
    simpa [high32, hlt, hk', BitVec.getLsbD_eq_getElem hk] using this

@[simp] theorem low32_join (h l : Half) : low32 (join h l) = l := by
  ext k hk
  have e : (join h l).getLsbD k = _ := BitVec.getLsbD_append (x := h) (y := l) (i := k)
  simp [low32, hk, e]

@[simp] theorem high32_join (h l : Half) : high32 (join h l) = h := by
  ext k hk
  have e : (join h l).getLsbD (32 + k) = _ := BitVec.getLsbD_append (x := h) (y := l) (i := 32 + k)
  simp [high32, hk, e]

@[simp] theorem low32_setLow32 (w : Word) (v : Half) : low32 (setLow32 w v) = v := low32_join _ _

@[simp] theorem high32_setLow32 (w : Word) (v : Half) : high32 (setLow32 w v) = high32 w := high32_join _ _

@[simp] theorem low32_zext64 (v : Half) : low32 (zext64 v) = v := by
  ext k hk; simp [low32, zext64, hk, show k < 64 by omega]

@[simp] theorem high32_zext64 (v : Half) : high32 (zext64 v) = 0 := by
  ext k hk; simp [high32, zext64]

/-! ## Accessors of the storage -/

theorem Regs.readGpr_writeGpr (r : Regs) (i j : Idx) (v : Word) :
    (r.writeGpr i v).readGpr j = if j = i ∧ i ≠ 0#5 then v else r.readGpr j := by
  by_cases h : i = 0
  · simp [h, Regs.writeGpr]
  · rw [Regs.writeGpr_of_ne h]
    exact (cellAt_setCell _ _ _ _).trans (if_congr (and_iff_left h).symm rfl rfl)

theorem Regs.readGpr_writeGpr32 (r : Regs) (i j : Idx) (v : Half) :
    (r.writeGpr32 i v).readGpr j = if j = i ∧ i ≠ 0#5 then setLow32 (r.readGpr i) v else r.readGpr j :=
  Regs.readGpr_writeGpr _ _ _ _

@[simp] theorem Regs.readFpr_writeGpr (r : Regs) (i j : Idx) (v : Word) :
    (r.writeGpr i v).readFpr j = r.readFpr j := by simp [Regs.readFpr]
@[simp] theorem Regs.readCp0_writeGpr (r : Regs) (i j : Idx) (v : Word) :
    (r.writeGpr i v).readCp0 j = r.readCp0 j := by simp [Regs.readCp0]
@[simp] theorem Regs.readMd_writeGpr (r : Regs) (i : Idx) (v : Word) (k : MdSel) :
    (r.writeGpr i v).readMd k = r.readMd k := by cases k <;> simp [Regs.readMd]

theorem Regs.readFpr_writeFpr (r : Regs) (i j : Idx) (v : Word) :
    (r.writeFpr i v).readFpr j = if j = i then v else r.readFpr j := cellAt_setCell _ _ _ _
theorem Regs.readFpr_writeFpr32 (r : Regs) (i j : Idx) (v : Half) :
    (r.writeFpr32 i v).readFpr j = if j = i then setLow32 (r.readFpr i) v else r.readFpr j :=
  Regs.readFpr_writeFpr _ _ _ _
@[simp] theorem Regs.readGpr_writeFpr (r : Regs) (i j : Idx) (v : Word) :
    (r.writeFpr i v).readGpr j = r.readGpr j := rfl
@[simp] theorem Regs.readCp0_writeFpr (r : Regs) (i j : Idx) (v : Word) :
    (r.writeFpr i v).readCp0 j = r.readCp0 j := rfl
@[simp] theorem Regs.readMd_writeFpr (r : Regs) (i : Idx) (v : Word) (k : MdSel) :
    (r.writeFpr i v).readMd k = r.readMd k := by cases k <;> rfl

theorem Regs.readCp0_writeCp0 (r : Regs) (i j : Idx) (v : Word) :
    (r.writeCp0 i v).readCp0 j = if j = i then v else r.readCp0 j := cellAt_setCell _ _ _ _
@[simp] theorem Regs.readGpr_writeCp0 (r : Regs) (i j : Idx) (v : Word) :
    (r.writeCp0 i v).readGpr j = r.readGpr j := rfl
@[simp] theorem Regs.readFpr_writeCp0 (r : Regs) (i j : Idx) (v : Word) :
    (r.writeCp0 i v).readFpr j = r.readFpr j := rfl
@[simp] theorem Regs.readMd_writeCp0 (r : Regs) (i : Idx) (v : Word) (k : MdSel) :
    (r.writeCp0 i v).readMd k = r.readMd k := by cases k <;> rfl

@[simp] theorem Regs.readGpr_writePc (r : Regs) (v : Word) (j : Idx) : (r.writePc v).readGpr j = r.readGpr j := rfl
@[simp] theorem Regs.readFpr_writePc (r : Regs) (v : Word) (j : Idx) : (r.writePc v).readFpr j = r.readFpr j := rfl
@[simp] theorem Regs.readCp0_writePc (r : Regs) (v : Word) (j : Idx) : (r.writePc v).readCp0 j = r.readCp0 j := rfl
@[simp] theorem Regs.readMd_writePc (r : Regs) (v : Word) (k : MdSel) : (r.writePc v).readMd k = r.readMd k := by
  cases k <;> rfl

theorem Regs.readMd_writeMd (r : Regs) (k m : MdSel) (v : Word) :
    (r.writeMd k v).readMd m = if m = k then v else r.readMd m := by cases k <;> cases m <;> rfl
@[simp] theorem Regs.readGpr_writeMd (r : Regs) (k : MdSel) (v : Word) (j : Idx) :
    (r.writeMd k v).readGpr j = r.readGpr j := by cases k <;> rfl
@[simp] theorem Regs.readFpr_writeMd (r : Regs) (k : MdSel) (v : Word) (j : Idx) :
    (r.writeMd k v).readFpr j = r.readFpr j := by cases k <;> rfl
@[simp] theorem Regs.readCp0_writeMd (r : Regs) (k : MdSel) (v : Word) (j : Idx) :
    (r.writeMd k v).readCp0 j = r.readCp0 j := by cases k <;> rfl

@[simp] theorem Regs.readGpr_writeLl (r : Regs) (b : Bool) (j : Idx) : (r.writeLl b).readGpr j = r.readGpr j := rfl
@[simp] theorem Regs.readFpr_writeLl (r : Regs) (b : Bool) (j : Idx) : (r.writeLl b).readFpr j = r.readFpr j := rfl
@[simp] theorem Regs.readCp0_writeLl (r : Regs) (b : Bool) (j : Idx) : (r.writeLl b).readCp0 j = r.readCp0 j := rfl
@[simp] theorem Regs.readMd_writeLl (r : Regs) (b : Bool) (k : MdSel) : (r.writeLl b).readMd k = r.readMd k := by
  cases k <;> rfl

/-! ## FR -/

@[simp] theorem Config.hw_statusIndex : Config.hw.statusIndex = 12#5 := rfl
@[simp] theorem Config.hw_frBit : Config.hw.frBit = 26 := rfl
@[simp] theorem Regs.fr_hw (r : Regs) : r.fr Config.hw = (r.readCp0 12).getLsbD 26 := rfl

theorem Regs.fr_congr (cfg : Config) {r r' : Regs} (h : r'.cp0 = r.cp0) : r'.fr cfg = r.fr cfg := by
  simp [Regs.fr, Regs.readCp0, h]

/-- An even index and its successor differ (R125). -/
@[simp] theorem idx_succ_ne (i : Idx) : i + 1#5 ≠ i := by
  revert i; decide

/-! ## The 64-bit FPR access -/

/-- Everything `fprLoad64` can answer (R127). -/
theorem fprLoad64_cases (cfg : Config) (r : Regs) (i : Idx) :
    (r.fr cfg = true ∧ fprLoad64 cfg r i = .ok (r.readFpr i)) ∨
    (r.fr cfg = false ∧ i.getLsbD 0 = true ∧ fprLoad64 cfg r i = .error .oddPair) ∨
    (r.fr cfg = false ∧ i.getLsbD 0 = false ∧ cfg.pairedSplit = .exactSplit ∧
      fprLoad64 cfg r i = .ok (join (low32 (r.readFpr (i + 1#5))) (low32 (r.readFpr i)))) ∨
    (r.fr cfg = false ∧ i.getLsbD 0 = false ∧ cfg.pairedSplit = .contiguous ∧
      fprLoad64 cfg r i = .ok (r.readFpr i)) := by
  unfold fprLoad64
  cases hf : r.fr cfg <;> cases ho : i.getLsbD 0 <;> cases hs : cfg.pairedSplit <;> simp

/-- Everything `fprStore64` can answer (R128). -/
theorem fprStore64_cases (cfg : Config) (r : Regs) (i : Idx) (v : Word) :
    (r.fr cfg = true ∧ fprStore64 cfg r i v = .ok (r.writeFpr i v)) ∨
    (r.fr cfg = false ∧ i.getLsbD 0 = true ∧ fprStore64 cfg r i v = .error .oddPair) ∨
    (r.fr cfg = false ∧ i.getLsbD 0 = false ∧ cfg.pairedSplit = .exactSplit ∧
      fprStore64 cfg r i v = .ok ((r.writeFpr32 i (low32 v)).writeFpr32 (i + 1#5) (high32 v))) ∨
    (r.fr cfg = false ∧ i.getLsbD 0 = false ∧ cfg.pairedSplit = .contiguous ∧
      fprStore64 cfg r i v = .ok (r.writeFpr i v)) := by
  unfold fprStore64
  cases hf : r.fr cfg <;> cases ho : i.getLsbD 0 <;> cases hs : cfg.pairedSplit <;> simp

/-! ## Ends of a request -/

theorem answer_eq_next {s t : State} {v : Word} : answer s v = .next t ↔ t = { s with rsp := ⟨v, .ok⟩ } := by
  constructor
  · intro h; cases h; rfl
  · rintro rfl; rfl

theorem commit_eq_next {s t : State} {r : Regs} :
    commit s r = .next t ↔ t = { s with regs := r, rsp := ⟨0, .ok⟩ } := by
  constructor
  · intro h; cases h; rfl
  · rintro rfl; rfl

theorem answer_ne_fault {s : State} {v : Word} {f : Fault} : answer s v ≠ .fault f := nofun
theorem commit_ne_fault {s : State} {r : Regs} {f : Fault} : commit s r ≠ .fault f := nofun
theorem raise_ne_next {f : Fault} {t : State} : raise f ≠ .next t := nofun

end Sys2Proof.Machine
end

