-- ==== Sys2Proof/Laws/Footprint.lean ====
section
/-! SUPPORT. What each write of the storage does to its parts, and that the parts determine the cells. -/

namespace Sys2Proof.Machine

@[simp] theorem written_nil (p : Part) (old : Half) : written [] p old = old := rfl

theorem written_cons (q : Part) (v : Half) (ws : List (Part × Half)) (p : Part) (old : Half) :
    written ((q, v) :: ws) p old = if p = q then v else written ws p old := by
  by_cases h : p = q
  · simp [written, h]
  · have hb : (p == q) = false := by simpa using h
    simp [written, List.lookup, h, hb]

@[simp] theorem halfOf_false (v : Word) : halfOf v false = low32 v := rfl
@[simp] theorem halfOf_true (v : Word) : halfOf v true = high32 v := rfl

/-- The halves of a cell of which the low half is replaced. -/
theorem halfOf_setLow32 (w : Word) (v : Half) (c : CellName) (u : Bool) :
    halfOf (setLow32 w v) u = written [(lowPart c, v)] ⟨c, u⟩ (halfOf w u) := by
  cases u <;> simp [written_cons, lowPart]

/-- The halves of a cell that is replaced. -/
theorem halfOf_written (w v : Word) (c : CellName) (u : Bool) :
    halfOf v u = written (wholeWrite c v) ⟨c, u⟩ (halfOf w u) := by
  cases u <;> simp [written_cons, wholeWrite, lowPart, highPart]

/-- A write of other cells leaves a part alone. -/
theorem written_low_of_ne {c c' : CellName} (h : c' ≠ c) (v : Half) (u : Bool) (old : Half) :
    written [(lowPart c, v)] ⟨c', u⟩ old = old := by
  simp [written_cons, lowPart, h]

theorem written_whole_of_ne {c c' : CellName} (h : c' ≠ c) (v : Word) (u : Bool) (old : Half) :
    written (wholeWrite c v) ⟨c', u⟩ old = old := by
  simp [written_cons, wholeWrite, lowPart, highPart, h]

theorem Regs.part_writeGpr {i : Idx} (hi : i ≠ 0#5) (r : Regs) (v : Word) (p : Part) :
    (r.writeGpr i v).part p = written (wholeWrite (.gpr i) v) p (r.part p) := by
  obtain ⟨c, u⟩ := p
  by_cases h : c = .gpr i
  · subst h
    have e : (r.writeGpr i v).readGpr i = v := by simp [Regs.readGpr_writeGpr, hi]
    simp only [Regs.part, e]
    exact halfOf_written _ _ _ _
  · rw [written_whole_of_ne h]
    cases c with
    | gpr j =>
      have hj : j ≠ i := fun e => h (e ▸ rfl)
      simp [Regs.part, Regs.readGpr_writeGpr, hj]
    | _ => simp [Regs.part]

theorem Regs.part_writeGpr32 {i : Idx} (hi : i ≠ 0#5) (r : Regs) (v : Half) (p : Part) :
    (r.writeGpr32 i v).part p = written [(lowPart (.gpr i), v)] p (r.part p) := by
  obtain ⟨c, u⟩ := p
  by_cases h : c = .gpr i
  · subst h
    have e : (r.writeGpr32 i v).readGpr i = setLow32 (r.readGpr i) v := by simp [Regs.readGpr_writeGpr32, hi]
    simp only [Regs.part, e]
    exact halfOf_setLow32 _ _ _ _
  · rw [written_low_of_ne h]
    cases c with
    | gpr j =>
      have hj : j ≠ i := fun e => h (e ▸ rfl)
      simp [Regs.part, Regs.readGpr_writeGpr32, hj]
    | _ => simp [Regs.part, Regs.writeGpr32]

theorem Regs.part_writeFpr (r : Regs) (i : Idx) (v : Word) (p : Part) :
    (r.writeFpr i v).part p = written (wholeWrite (.fpr i) v) p (r.part p) := by
  obtain ⟨c, u⟩ := p
  by_cases h : c = .fpr i
  · subst h
    have e : (r.writeFpr i v).readFpr i = v := by simp [Regs.readFpr_writeFpr]
    simp only [Regs.part, e]
    exact halfOf_written _ _ _ _
  · rw [written_whole_of_ne h]
    cases c with
    | fpr j =>
      have hj : j ≠ i := fun e => h (e ▸ rfl)
      simp [Regs.part, Regs.readFpr_writeFpr, hj]
    | _ => simp [Regs.part]

theorem Regs.part_writeFpr32 (r : Regs) (i : Idx) (v : Half) (p : Part) :
    (r.writeFpr32 i v).part p = written [(lowPart (.fpr i), v)] p (r.part p) := by
  obtain ⟨c, u⟩ := p
  by_cases h : c = .fpr i
  · subst h
    have e : (r.writeFpr32 i v).readFpr i = setLow32 (r.readFpr i) v := by simp [Regs.readFpr_writeFpr32]
    simp only [Regs.part, e]
    exact halfOf_setLow32 _ _ _ _
  · rw [written_low_of_ne h]
    cases c with
    | fpr j =>
      have hj : j ≠ i := fun e => h (e ▸ rfl)
      simp [Regs.part, Regs.readFpr_writeFpr32, hj]
    | _ => simp [Regs.part, Regs.writeFpr32]

theorem Regs.part_writeCp0 (r : Regs) (i : Idx) (v : Word) (p : Part) :
    (r.writeCp0 i v).part p = written (wholeWrite (.cp0 i) v) p (r.part p) := by
  obtain ⟨c, u⟩ := p
  by_cases h : c = .cp0 i
  · subst h
    have e : (r.writeCp0 i v).readCp0 i = v := by simp [Regs.readCp0_writeCp0]
    simp only [Regs.part, e]
    exact halfOf_written _ _ _ _
  · rw [written_whole_of_ne h]
    cases c with
    | cp0 j =>
      have hj : j ≠ i := fun e => h (e ▸ rfl)
      simp [Regs.part, Regs.readCp0_writeCp0, hj]
    | _ => simp [Regs.part]

theorem Regs.part_writePc (r : Regs) (v : Word) (p : Part) :
    (r.writePc v).part p = written (wholeWrite .pc v) p (r.part p) := by
  obtain ⟨c, u⟩ := p
  cases c with
  | pc => exact halfOf_written _ _ _ _
  | _ => simp [Regs.part, written_cons, wholeWrite, lowPart, highPart]

theorem Regs.part_writePc32 (r : Regs) (v : Half) (p : Part) :
    (r.writePc32 v).part p = written [(lowPart .pc, v)] p (r.part p) := by
  obtain ⟨c, u⟩ := p
  cases c with
  | pc => exact halfOf_setLow32 _ _ _ _
  | _ => simp [Regs.part, Regs.writePc32, written_cons, lowPart]

theorem Regs.part_writeMd (r : Regs) (k : MdSel) (v : Word) (p : Part) :
    (r.writeMd k v).part p = written (wholeWrite (.md k) v) p (r.part p) := by
  obtain ⟨c, u⟩ := p
  by_cases h : c = .md k
  · subst h
    have e : (r.writeMd k v).readMd k = v := by simp [Regs.readMd_writeMd]
    simp only [Regs.part, e]
    exact halfOf_written _ _ _ _
  · rw [written_whole_of_ne h]
    cases c with
    | md m =>
      have hm : m ≠ k := fun e => h (e ▸ rfl)
      simp [Regs.part, Regs.readMd_writeMd, hm]
    | _ => simp [Regs.part]

theorem Regs.part_writeLl (r : Regs) (b : Bool) (p : Part) :
    (r.writeLl b).part p = written [(lowPart .ll, (BitVec.ofBool b).setWidth 32)] p (r.part p) := by
  obtain ⟨c, u⟩ := p
  cases c with
  | ll =>
    have key : ∀ old new u : Bool, halfOf (zextBit new) u =
        written [(lowPart .ll, (BitVec.ofBool new).setWidth 32)] ⟨.ll, u⟩ (halfOf (zextBit old) u) := by decide
    exact key _ _ _
  | _ => simp [Regs.part, written_cons, lowPart]

/-- The flag is its low part. -/
theorem Regs.llbit_of_part {r r' : Regs} (h : r'.part (lowPart .ll) = r.part (lowPart .ll)) : r'.llbit = r.llbit := by
  have key : ∀ a b : Bool, low32 (zextBit a) = low32 (zextBit b) → a = b := by decide
  exact key _ _ h

/-- FR depends on its part only. -/
theorem Regs.fr_of_part {cfg : Config} {r r' : Regs} (h : r'.part (frPart cfg) = r.part (frPart cfg)) :
    r'.fr cfg = r.fr cfg := by
  have key : ∀ (v w : Word) (k : Fin 64), halfOf v (decide (32 ≤ k.val)) = halfOf w (decide (32 ≤ k.val)) →
      v.getLsbD k.val = w.getLsbD k.val := by
    intro v w k e
    by_cases hk : 32 ≤ k.val
    · have := congrArg (fun x => x.getLsbD (k.val - 32)) e
      simpa [hk, high32, show k.val - 32 < 32 by omega] using this
    · have := congrArg (fun x => x.getLsbD k.val) e
      simpa [hk, low32, show k.val < 32 by omega] using this
  exact key _ _ _ h

end Sys2Proof.Machine
end

