-- ==== Sys2Proof/Laws/PerInstr.lean ====
section
/-! SUPPORT. A statement about every instruction as syntax, one lemma per constructor: the command word that encodes it
is a defined one, of the target, direction and width of R73. -/

namespace Sys2Proof.Laws.EncodedCommand

/-- The command word of `i` is defined (R74, R75) and its `op` says target, direction and width (R73). -/
def Statement (i : Instr) : Prop :=
  wellFormedCmd (encode i).cmd = true ∧ targetOf (opOf (encode i).cmd) = some (targetOfInstr i) ∧
    opIsWrite (opOf (encode i).cmd) = isWrite i ∧ opIsWide (opOf (encode i).cmd) = isWide i

theorem gprRead32 (i : Idx) : Statement (.gprRead32 i) := by
  revert i; unfold Statement; decide
theorem gprRead64 (i : Idx) : Statement (.gprRead64 i) := by
  revert i; unfold Statement; decide
theorem gprWrite32 (i : Idx) (v : Half) : Statement (.gprWrite32 i v) := by
  revert i; simp only [Statement, encode, targetOfInstr, isWrite, formatOfInstr, isWide]; decide
theorem gprWrite64 (i : Idx) (v : Word) : Statement (.gprWrite64 i v) := by
  revert i; simp only [Statement, encode, targetOfInstr, isWrite, formatOfInstr, isWide]; decide
theorem fprRead32 (i : Idx) : Statement (.fprRead32 i) := by
  revert i; unfold Statement; decide
theorem fprRead64 (i : Idx) : Statement (.fprRead64 i) := by
  revert i; unfold Statement; decide
theorem fprWrite32 (i : Idx) (v : Half) : Statement (.fprWrite32 i v) := by
  revert i; simp only [Statement, encode, targetOfInstr, isWrite, formatOfInstr, isWide]; decide
theorem fprWrite64 (i : Idx) (v : Word) : Statement (.fprWrite64 i v) := by
  revert i; simp only [Statement, encode, targetOfInstr, isWrite, formatOfInstr, isWide]; decide
theorem cp0Read (i : Idx) : Statement (.cp0Read i) := by
  revert i; unfold Statement; decide
theorem cp0Write (i : Idx) (v : Word) : Statement (.cp0Write i v) := by
  revert i; simp only [Statement, encode, targetOfInstr, isWrite, formatOfInstr, isWide]; decide
theorem pcRead32 : Statement .pcRead32 := by unfold Statement; decide
theorem pcRead64 : Statement .pcRead64 := by unfold Statement; decide
theorem pcWrite32 (v : Half) : Statement (.pcWrite32 v) := by
  simp only [Statement, encode, targetOfInstr, isWrite, formatOfInstr, isWide]; decide
theorem pcWrite64 (v : Word) : Statement (.pcWrite64 v) := by
  simp only [Statement, encode, targetOfInstr, isWrite, formatOfInstr, isWide]; decide
theorem mdRead (k : MdSel) : Statement (.mdRead k) := by
  cases k <;> unfold Statement <;> decide
theorem mdWrite (k : MdSel) (v : Word) : Statement (.mdWrite k v) := by
  cases k <;> simp only [Statement, encode, targetOfInstr, isWrite, formatOfInstr, isWide] <;> decide
theorem llRead : Statement .llRead := by unfold Statement; decide
theorem llWrite (b : Bool) : Statement (.llWrite b) := by
  simp only [Statement, encode, targetOfInstr, isWrite, formatOfInstr, isWide]; decide

end Sys2Proof.Laws.EncodedCommand
end

