-- ==== Sys2Proof/Laws/Step.lean ====
section
/-! SUPPORT. What a request and a step can do, said once. -/

namespace Sys2Proof.Machine

/-- How `exec` can end: a read answers a value of `s`, a write commits a storage, or a 64-bit FPR request in paired
mode with an odd index raises ODD_PAIR. -/
theorem exec_ends (i : Instr) (s : State) :
    (isWrite i = false ∧ ∃ v, exec i s = answer s v) ∨ (isWrite i = true ∧ ∃ r, exec i s = commit s r) ∨
      exec i s = raise .oddPair := by
  cases i with
  | fprRead64 r =>
    simp only [exec, execFprRead64, fprRead64With]
    rcases fprLoad64_cases Config.hw s.regs r with h | h | h | h <;> simp [h, isWrite, formatOfInstr]
  | fprWrite64 r v =>
    simp only [exec, execFprWrite64, fprWrite64With]
    rcases fprStore64_cases Config.hw s.regs r v with h | h | h | h <;> simp [h, isWrite, formatOfInstr]
  | gprRead32 | gprRead64 | fprRead32 | cp0Read | pcRead32 | pcRead64 | mdRead | llRead =>
    exact .inl ⟨rfl, _, rfl⟩
  | gprWrite32 | gprWrite64 | fprWrite32 | cp0Write | pcWrite32 | pcWrite64 | mdWrite | llWrite =>
    exact .inr (.inl ⟨rfl, _, rfl⟩)

theorem exec_ne_refused (i : Instr) (s : State) (r : Refusal) : exec i s ≠ .refused r := by
  rcases exec_ends i s with ⟨_, v, h⟩ | ⟨_, g, h⟩ | h <;> rw [h] <;> nofun

/-- A request touches neither the stream nor the count of idle steps, and completes with OK. -/
theorem exec_next_port {i : Instr} {s t : State} (h : exec i s = .next t) :
    t.input = s.input ∧ t.idles = s.idles ∧ t.rsp.err = .ok := by
  rcases exec_ends i s with ⟨_, v, e⟩ | ⟨_, g, e⟩ | e <;> rw [e] at h <;> cases h <;> exact ⟨rfl, rfl, rfl⟩

/-- Everything a step can do: idle, perform the decoded request, or fault on a reserved encoding. -/
theorem step_cases (s : State) :
    ((s.input = [] ∨ ∃ q rest, s.input = ⟨false, q⟩ :: rest) ∧
      step s = .next (idle { s with input := s.input.tail })) ∨
    (∃ q rest i, s.input = ⟨true, q⟩ :: rest ∧ decode q = some i ∧ step s = exec i { s with input := rest }) ∨
    (∃ q rest, s.input = ⟨true, q⟩ :: rest ∧ decode q = none ∧ step s = .fault .reservedEncoding) := by
  rcases s with ⟨regs, input, rsp, idles⟩
  rcases input with _ | ⟨⟨valid, q⟩, rest⟩
  · exact .inl ⟨.inl rfl, rfl⟩
  · cases valid
    · exact .inl ⟨.inr ⟨q, rest, rfl⟩, rfl⟩
    · rcases hd : decode q with _ | i
      · refine .inr (.inr ⟨q, rest, rfl, hd, ?_⟩)
        simp [step, fetch, hd, raise]
      · refine .inr (.inl ⟨q, rest, i, rfl, hd, ?_⟩)
        simp [step, fetch, hd]

/-- Under this hardware's parameters the variant's request is the request. -/
@[simp] theorem execWith_hw (i : Instr) (s : State) : execWith Config.hw i s = exec i s := by
  cases i <;> rfl

end Sys2Proof.Machine
end

