-- ==== Sys2Proof/Tests/Slice0.lean ====
section
/-! SUPPORT. Tests of one step each, with expected results from the spec's vectors (95_test_vectors.md) and worked
encodings (R81); the smoke tests of WellFormed; and the witnesses that the hypotheses of the statements can be met. -/

namespace Sys2Proof.Tests

open Sys2Proof Sys2Proof.Machine

/-! ## Helpers -/

/-- The state with storage `r` and one request presented. -/
def ask (r : Regs) (c : Cmd) (w : Word) : State :=
  { State.reset with regs := r, input := [⟨true, ⟨c, w⟩⟩] }

/-- The response of an outcome, if there is a next state. -/
def respOf : Result → Option Response
  | .next t => some t.rsp
  | .fault _ => none
  | .refused _ => none

/-- The storage of an outcome, if there is a next state. -/
def regsOf : Result → Option Regs
  | .next t => some t.regs
  | .fault _ => none
  | .refused _ => none

/-- The fault of an outcome. -/
def faultOf : Result → Option Fault
  | .next _ => none
  | .fault f => some f
  | .refused _ => none

/-- The start state of section 2.1 of 95_test_vectors.md. -/
def gprStart : Regs := Regs.reset.writeGpr 7 0xAAAAAAAA55555555

/-- The start state of section 2.2: table A with `status` = 0x04000000, table B with 0. -/
def fprStart (status : Word) : Regs :=
  ((Regs.reset.writeCp0 12 status).writeFpr 8 0x1111111122222222).writeFpr 9 0x3333333344444444

/-- The start states of section 2.4. -/
def pcStart : Regs := Regs.reset.writePc 0xFFFFFFFF80000000
def mdStart : Regs := (Regs.reset.writeMd .hi 0x10).writeMd .lo 0x20

/-! ## WellFormed: one ill-formed word for each check -/

theorem test_wf_reserved_op : definedOp 0x100 = false ∧ wellFormedCmd 0x100 = false := by decide
theorem test_wf_single_idx : singleIdxOk 0x1A1 = false ∧ wellFormedCmd 0x1A1 = false := by decide
theorem test_wf_selected_idx : selectedIdxOk 0x222 = false ∧ wellFormedCmd 0x222 = false := by decide
theorem test_wf_defined : wellFormedCmd 0x3FF = false ∧ wellFormedCmd 0x09F = true := by decide

/-! ## Decoding, on words written out bit by bit from R72 to R75 -/

theorem test_decode_gprRead32 : decode ⟨0b0000000010, 0⟩ = some (.gprRead32 2) := by decide
theorem test_decode_gprRead64 : decode ⟨0b0000111111, 0⟩ = some (.gprRead64 31) := by decide
theorem test_decode_gprWrite32 : decode ⟨0b0001000010, 0xFFFFFFFF00001234⟩ = some (.gprWrite32 2 0x1234) := by decide
theorem test_decode_gprWrite64 : decode ⟨0b0001111101, 0x801FFFF0⟩ = some (.gprWrite64 29 0x801FFFF0) := by decide
theorem test_decode_fprRead32 : decode ⟨0b0010000100, 0⟩ = some (.fprRead32 4) := by decide
theorem test_decode_fprRead64 : decode ⟨0b0010100100, 0⟩ = some (.fprRead64 4) := by decide
theorem test_decode_fprWrite32 : decode ⟨0b0011001001, 0xDEADBEEF⟩ = some (.fprWrite32 9 0xDEADBEEF) := by decide
theorem test_decode_fprWrite64 :
    decode ⟨0b0011100100, 0x3FF0000000000000⟩ = some (.fprWrite64 4 0x3FF0000000000000) := by decide
theorem test_decode_cp0Read : decode ⟨0b0100101100, 0⟩ = some (.cp0Read 12) := by decide
theorem test_decode_cp0Write : decode ⟨0b0101101100, 0x04000000⟩ = some (.cp0Write 12 0x04000000) := by decide
theorem test_decode_pcRead32 : decode ⟨0b0110000000, 0⟩ = some .pcRead32 := by decide
theorem test_decode_pcRead64 : decode ⟨0b0110100000, 0⟩ = some .pcRead64 := by decide
theorem test_decode_pcWrite32 : decode ⟨0b0111000000, 0x100400003⟩ = some (.pcWrite32 0x400003) := by decide
theorem test_decode_pcWrite64 : decode ⟨0b0111100000, 2⟩ = some (.pcWrite64 2) := by decide
theorem test_decode_mdRead : decode ⟨0b1000100001, 0⟩ = some (.mdRead .lo) := by decide
theorem test_decode_mdWrite : decode ⟨0b1001100000, 0x99⟩ = some (.mdWrite .hi 0x99) := by decide
theorem test_decode_llRead : decode ⟨0b1010000000, 0⟩ = some .llRead := by decide
theorem test_decode_llWrite : decode ⟨0b1011000000, 0xFFFFFFFFFFFFFFFE⟩ = some (.llWrite false) := by decide

/-- V34, V35, V43, V47, V48, V51, V52, V53: reserved words. -/
theorem test_decode_reserved :
    [0x100, 0x140, 0x1C1, 0x223, 0x200, 0x2A0, 0x2C4, 0x3FF].all (fun c => (decode ⟨c, 1⟩).isNone) = true := by decide

/-- The word numbering: the command in bits 9:0, the data from bit 10. -/
theorem test_tableWord :
    decodeTableWord 16 0x042 = some (.gprWrite32 2 0) ∧
    decodeTableWord 74 (0x07F + 0x89ABCDEF * 2 ^ 10) = some (.gprWrite64 31 0x89ABCDEF) := by decide

/-- The first step after reset runs the placed request (V8, V40's form). -/
theorem test_fetchWord :
    respOf (step (State.reset.withFetchWord 16 0x000)) = some ⟨0, .ok⟩ ∧
    faultOf (step (State.reset.withFetchWord 16 0x0A5)) = some .oddPair := by decide

/-! ## GPR: V1 to V8 -/

theorem test_V1 : respOf (step (ask gprStart 0x007 0)) = some ⟨0x55555555, .ok⟩ := by decide
theorem test_V2 : respOf (step (ask gprStart 0x027 0)) = some ⟨0xAAAAAAAA55555555, .ok⟩ := by decide
theorem test_V3 : (regsOf (step (ask gprStart 0x047 0x180000000))).map (·.readGpr 7) = some 0xAAAAAAAA80000000 := by
  decide
theorem test_V4 : (regsOf (step (ask gprStart 0x067 0x180000000))).map (·.readGpr 7) = some 0x180000000 := by decide
theorem test_V5 : regsOf (step (ask gprStart 0x040 0xFFFFFFFF)) = some gprStart := by decide
theorem test_V6 : regsOf (step (ask gprStart 0x060 0xFFFFFFFFFFFFFFFF)) = some gprStart := by decide

/-! ## FPR: tables A (FR = 1) and B (FR = 0) of section 2.2 -/

theorem test_V11 : respOf (step (ask (fprStart 0x04000000) 0x089 0)) = some ⟨0x44444444, .ok⟩ := by decide
theorem test_V13 : respOf (step (ask (fprStart 0x04000000) 0x0A9 0)) = some ⟨0x3333333344444444, .ok⟩ := by decide
theorem test_V16 : (regsOf (step (ask (fprStart 0x04000000) 0x0E9 0xAAAAAAAABBBBBBBB))).map
    (fun r => (r.readFpr 8, r.readFpr 9)) = some (0x1111111122222222, 0xAAAAAAAABBBBBBBB) := by decide
theorem test_V22 : respOf (step (ask (fprStart 0) 0x0A8 0)) = some ⟨0x4444444422222222, .ok⟩ := by decide
theorem test_V24 : (regsOf (step (ask (fprStart 0) 0x0C9 0xDEADBEEF))).map (·.readFpr 9) = some 0x33333333DEADBEEF := by
  decide
theorem test_V25 : (regsOf (step (ask (fprStart 0) 0x0E8 0xAAAAAAAABBBBBBBB))).map
    (fun r => (r.readFpr 8, r.readFpr 9)) = some (0x11111111BBBBBBBB, 0x33333333AAAAAAAA) := by decide
theorem test_V23_V26_V29 : [0x0A9, 0x0E9, 0x0BF].all
    (fun c => faultOf (step (ask (fprStart 0) c 1)) == some .oddPair) = true := by decide

/-! ## CP0: V30 to V33 -/

theorem test_V30 : respOf (step (ask (Regs.reset.writeCp0 9 0x1234) 0x129 0)) = some ⟨0x1234, .ok⟩ := by decide
theorem test_V32 : (regsOf (step (ask Regs.reset 0x167 0x8000000000000001))).map (·.readCp0 7) =
    some 0x8000000000000001 := by decide
theorem test_V33 : (regsOf (step (ask Regs.reset 0x16C 0xFFFFFFFFFBFFFFFF))).map (·.fr Config.hw) = some false := by
  decide

/-! ## PC, HI/LO, LL: V40 to V50 -/

theorem test_V40 : respOf (step (ask pcStart 0x180 0)) = some ⟨0x80000000, .ok⟩ := by decide
theorem test_pcRead64_example :
    respOf (step (ask (Regs.reset.writePc 0xFFFFFFFFA4000040) 0x1A0 0)) = some ⟨0xFFFFFFFFA4000040, .ok⟩ := by decide
theorem test_V41 : (regsOf (step (ask pcStart 0x1C0 0x400003))).map (·.pc) = some 0xFFFFFFFF00400003 := by decide
theorem test_V42 : (regsOf (step (ask pcStart 0x1E0 2))).map (·.pc) = some 2 := by decide
theorem test_V44_V45 : respOf (step (ask mdStart 0x220 0)) = some ⟨0x10, .ok⟩ ∧
    respOf (step (ask mdStart 0x221 0)) = some ⟨0x20, .ok⟩ := by decide
theorem test_V46 : (regsOf (step (ask mdStart 0x260 0x99))).map (fun r => (r.hi, r.lo)) = some (0x99, 0x20) := by decide
theorem test_llRead : respOf (step (ask (Regs.reset.writeLl true) 0x280 0)) = some ⟨1, .ok⟩ := by decide
theorem test_V49_V50 : (regsOf (step (ask Regs.reset 0x2C0 0xFFFFFFFFFFFFFFFE))).map (·.llbit) = some false ∧
    (regsOf (step (ask Regs.reset 0x2C0 3))).map (·.llbit) = some true := by decide

/-! ## Idle step, violations at the port, variants -/

/-- V60. -/
theorem test_V60 : regsOf (step { ask gprStart 0 0 with input := [⟨false, ⟨0x067, 5⟩⟩] }) = some gprStart := rfl

/-- The first step of P6, as the port shows it. -/
theorem test_P6_port : (portStep (ask (fprStart 0) 0x0A5 0)).rsp = ⟨0, .oddPair⟩ ∧
    (portStep (ask (fprStart 0) 0x0A5 0)).regs = fprStart 0 := by decide

/-- Under CONTIGUOUS, V22 and V27 read and write the one cell. -/
theorem test_contiguous :
    respOf (execWith { Config.hw with pairedSplit := .contiguous } (.fprRead64 8) (ask (fprStart 0) 0 0)) =
      some ⟨0x1111111122222222, .ok⟩ ∧
    (regsOf (execWith { Config.hw with pairedSplit := .contiguous } (.fprWrite64 0 0x0123456789ABCDEF)
      (ask (fprStart 0) 0 0))).map (fun r => (r.readFpr 0, r.readFpr 1)) = some (0x0123456789ABCDEF, 0) := by decide

/-- Under UNKNOWN, V8 from reset is a fault. -/
theorem test_unknown_V8 :
    (match vstep { Config.hw with resetPolicy := .unknown } ⟨ask Regs.reset 0x000 0, []⟩ with
      | .fault f => f = .unwrittenRead ⟨.gpr 0, false⟩
      | .next _ => False
      | .refused _ => False) := rfl

/-- Under UNKNOWN, a half that was written is read, and the half that was not is a fault. -/
theorem test_unknown_half :
    (blockedRead { Config.hw with resetPolicy := .unknown } ⟨State.reset, [⟨.pc, false⟩]⟩ Regs.reset .pcRead32 = none) ∧
    (blockedRead { Config.hw with resetPolicy := .unknown } ⟨State.reset, [⟨.pc, false⟩]⟩ Regs.reset .pcRead64 =
      some ⟨.pc, true⟩) := by decide

/-- R7: the parameters agree with the widths and sizes of the types. -/
theorem test_parameters : Config.hw.xlen = 64 ∧ Regs.reset.gpr.size = Config.hw.ngpr ∧
    Regs.reset.fpr.size = Config.hw.nfpr ∧ Regs.reset.cp0.size = Config.hw.ncp0 ∧ 2 ^ Config.hw.idxw = 32 :=
  ⟨rfl, rfl, rfl, rfl, rfl⟩

/-- R26, R27, R29: the name tables have 32 entries, Status is 12, and FR is bit 26 of it. -/
theorem test_names : gprNames.length = 32 ∧ cp0Names.length = 32 ∧ cp0Names.getD 12 "" = "Status" ∧
    gprNames.getD 2 "" = "v0" ∧ statusFieldBits .fr = (26, 1) ∧ statusField 0x04000000 .fr = 1 := by decide

/-! ## Witnesses: the hypotheses of the statements can be met -/

/-- DecodedCommandIsEncoded, OpSubfieldsGiveTargetDirectionWidth (first clause). -/
theorem witness_decoded : decode ⟨0x261, 7⟩ = some (.mdWrite .lo 7) := by decide

/-- OpSubfieldsGiveTargetDirectionWidth: a word of target 110, and one of target 111. -/
theorem witness_reservedTarget :
    (0x300 : Cmd).extractLsb' 8 2 = 0b11#2 ∧ (0x3E0 : Cmd).extractLsb' 8 2 = 0b11#2 := by decide

/-- ReservedEncodingsFault, RequestCompletesOrWritesNothing: a presented reserved word of each of the three kinds. -/
theorem witness_reserved :
    (∃ rest, (ask Regs.reset 0x3FF 0).input = ⟨true, ⟨0x3FF, 0⟩⟩ :: rest) ∧ wellFormedCmd 0x3FF = false ∧
    wellFormedCmd 0x2C4 = false ∧ wellFormedCmd 0x222 = false := ⟨⟨[], rfl⟩, by decide⟩

/-- IgnoredDataBitsDoNotDecode: data words that agree on the bits used only, for each clause. -/
theorem witness_ignored :
    (0x007 : Cmd).getLsbD 6 = false ∧
    (0x047 : Cmd).getLsbD 5 = false ∧
    (0x100000005 : Word).extractLsb' 0 32 = (0x5 : Word).extractLsb' 0 32 ∧
    opOf 0x2C0 = 0x16 ∧ (0x3 : Word).getLsbD 0 = (0x1 : Word).getLsbD 0 := by decide

/-- StepRunsTheDecodedRequest: a presented request that decodes. -/
theorem witness_presented :
    (ask gprStart 0x047 5).input = ⟨true, ⟨0x047, 5⟩⟩ :: [] ∧ decode ⟨0x047, 5⟩ = some (.gprWrite32 7 5) :=
  ⟨rfl, by decide⟩

/-- IdleStepChangesNoStorage: nothing presented, and a step with `req_valid` = 0. -/
theorem witness_idle : State.reset.input = [] ∧
    ({ State.reset with input := [⟨false, ⟨0x067, 5⟩⟩] } : State).input = ⟨false, ⟨0x067, 5⟩⟩ :: [] := ⟨rfl, rfl⟩

/-- StepCompletesExactlyOnContract: both sides occur. -/
theorem witness_contract :
    safeStep (ask (fprStart 0) 0x0A8 0) = true ∧ safeStep (ask (fprStart 0) 0x0A9 0) = false ∧
    safeStep (ask (fprStart 0x04000000) 0x0A9 0) = true ∧ safeStep (ask Regs.reset 0x1A1 0) = false := by decide

/-- ViolationCauses, OnlyPairedMode64BitFprRequestsViolate, ErrorCausesExcludeEachOther: each fault occurs, in a step and in a request. -/
theorem witness_violations :
    faultOf (step (ask Regs.reset 0x100 0)) = some .reservedEncoding ∧
    faultOf (step (ask Regs.reset 0x0A1 0)) = some .oddPair ∧
    faultOf (exec (.fprRead64 31) State.reset) = some .oddPair ∧
    faultOf (exec (.fprWrite64 1 0) State.reset) = some .oddPair := by decide

/-- ViolatingRequestIsUsedUp: a presented word of each fault, with another request behind it. -/
theorem witness_usedUp :
    let behind : List PortInput := [⟨true, ⟨0x020, 0⟩⟩]
    let s : State := { State.reset with input := ⟨true, ⟨0x100, 0⟩⟩ :: behind }
    let u : State := { State.reset with input := ⟨true, ⟨0x0A1, 0⟩⟩ :: behind }
    faultOf (step s) = some .reservedEncoding ∧ faultOf (step u) = some .oddPair := by decide

/-- ErrorCausesExcludeEachOther: a word that decodes to nothing, and the two `op` values that can raise ODD_PAIR. -/
theorem witness_errorCauses : decode ⟨0x200, 0⟩ = none ∧ opOf 0x0A0 = 0x05 ∧ opOf 0x0E0 = 0x07 := by decide

/-- ResetIsPairedAndZeroRegisterStays: a run of two steps from reset, the first a write of GPR 0. -/
theorem witness_run :
    ∃ t, RunsTo 2 { State.reset with input := [⟨true, ⟨0x060, 5⟩⟩, ⟨true, ⟨0x020, 0⟩⟩] } t :=
  ⟨_, _, rfl, _, rfl, rfl⟩

/-- ZeroRegisterKeptByEveryStep, GprRead32Result (last clause): a state that holds the invariant and steps. -/
theorem witness_zeroReg : ZeroRegHolds (ask gprStart 0x047 5).regs ∧
    (regsOf (step (ask gprStart 0x047 5))).isSome = true := ⟨by unfold ZeroRegHolds; decide, by decide⟩

/-- The GPR statements with `i ≠ 0`, and with `j ≠ i`, at the ends of the range. -/
theorem witness_gprIndex : (1 : Idx) ≠ 0 ∧ (31 : Idx) ≠ 0 ∧ (0 : Idx) ≠ 31 := by decide

/-- GprWrite64Result: a later state whose GPR bank is the written one. -/
theorem witness_gprBank : ({ State.reset with regs := gprStart } : State).regs.gpr = gprStart.gpr := rfl

/-- GprWriteThenReadLaws (b) and (c): the writes answer a next state. -/
theorem witness_gprWrites : (regsOf (exec (.gprWrite32 0 1) State.reset)).isSome = true ∧
    (regsOf (exec (.gprWrite64 31 1) State.reset)).isSome = true := by decide

/-- The FPR statements: direct mode; paired mode with an even index at each end; paired mode with an odd index at each
end. -/
theorem witness_modes :
    ((fprStart 0x04000000).readCp0 12).getLsbD 26 = true ∧ ((fprStart 0).readCp0 12).getLsbD 26 = false ∧
    (0 : Idx).getLsbD 0 = false ∧ (30 : Idx).getLsbD 0 = false ∧ (1 : Idx).getLsbD 0 = true ∧
    (31 : Idx).getLsbD 0 = true ∧ (30 : Idx) + 1 = 31 := by decide

/-- OddIndexInPairedModeForbidden: a presented word of each request at an odd index. -/
theorem witness_oddPresented :
    decode ⟨0x0BF, 0⟩ = some (.fprRead64 31) ∧ decode ⟨0x0E1, 9⟩ = some (.fprWrite64 1 9) ∧
    (ask (fprStart 0) 0x0BF 0).input = ⟨true, ⟨0x0BF, 0⟩⟩ :: [] := ⟨by decide, by decide, rfl⟩

/-- UpperHalvesOnlySeenDirect: a paired write that answers, and a bank that differs in an upper half only. -/
theorem witness_upper :
    (regsOf (exec (.fprWrite64 30 1) State.reset)).isSome = true ∧
    (∀ j, (cellAt (setCell State.reset.regs.fpr 3 0x500000000) j).extractLsb' 0 32 =
      (State.reset.regs.readFpr j).extractLsb' 0 32) ∧
    setCell State.reset.regs.fpr 3 0x500000000 ≠ State.reset.regs.fpr ∧
    (∀ r, Instr.fprRead32 3 ≠ .fprRead64 r) := by decide

/-- FprModeLaws (d): Status values of each mode. -/
theorem witness_status : (0x04000000 : Word).getLsbD 26 = true ∧ (0xFFFFFFFFFBFFFFFF : Word).getLsbD 26 = false := by
  decide

/-- FrChangesOnlyByStatusWrite: an FPR request that answers, and a step that changes FR. -/
theorem witness_frChange :
    targetOfInstr (.fprWrite64 2 1) = .fpr ∧ (regsOf (exec (.fprWrite64 2 1) State.reset)).isSome = true ∧
    (regsOf (step (ask Regs.reset 0x16C 0x04000000))).map (fun r => (r.readCp0 12).getLsbD 26) = some true := by decide

/-- Cp0IsPassiveButForFr: another CP0 bank with the same FR, and requests that answer and that fault. -/
theorem witness_cp0Bank :
    (cellAt (setCell State.reset.regs.cp0 12 0xFFFFFFFFFBFFFFFF) 12).getLsbD 26 =
      (State.reset.regs.readCp0 12).getLsbD 26 ∧
    (∀ r, Instr.fprRead64 2 ≠ .cp0Read r) ∧ (respOf (exec (.fprRead64 2) State.reset)).isSome = true ∧
    faultOf (exec (.fprRead64 3) State.reset) = some .oddPair := by decide

/-- PcReadResults, PcWriteResults, MdResults, LlResults: words with an `idx` the format does not admit. -/
theorem witness_badIdx :
    (opOf 0x181 = 0x0C ∧ idxOf 0x181 ≠ 0) ∧ (opOf 0x1BF = 0x0D ∧ idxOf 0x1BF ≠ 0) ∧
    (opOf 0x1C1 = 0x0E ∧ idxOf 0x1C1 ≠ 0) ∧ (opOf 0x1FF = 0x0F ∧ idxOf 0x1FF ≠ 0) ∧
    (opOf 0x222 = 0x11 ∧ (idxOf 0x222).extractLsb' 1 4 ≠ 0) ∧ (opOf 0x27F = 0x13 ∧ (idxOf 0x27F).extractLsb' 1 4 ≠ 0) ∧
    (opOf 0x281 = 0x14 ∧ idxOf 0x281 ≠ 0) ∧ (opOf 0x2C4 = 0x16 ∧ idxOf 0x2C4 ≠ 0) := by decide

/-- LlResults: a step that changes the flag. -/
theorem witness_llChange : (regsOf (step (ask Regs.reset 0x2C0 1))).map (·.llbit) = some true := by decide

/-- AuxiliaryRoundTrips: the two halves differ, and requests of each auxiliary target answer. -/
theorem witness_aux : MdSel.lo ≠ MdSel.hi ∧ targetOfInstr (.pcWrite32 1) = .pc ∧ targetOfInstr (.mdWrite .hi 1) = .md ∧
    targetOfInstr (.llWrite true) = .ll ∧ (regsOf (exec (.pcWrite32 1) State.reset)).isSome = true ∧
    (regsOf (exec (.mdWrite .hi 1) State.reset)).isSome = true ∧
    (regsOf (exec (.llWrite true) State.reset)).isSome = true := by decide

/-- ReadsChangeOnlyTheResponse, RequestsAreIdempotent, RequestWritesExactlyItsFootprint: a read and a write that
answer. -/
theorem witness_answers : isWrite (.mdRead .hi) = false ∧ (regsOf (exec (.mdRead .hi) State.reset)).isSome = true ∧
    (regsOf (exec (.fprWrite64 2 1) State.reset)).isSome = true := by decide

/-- OnlyNamedWritesChangeACell: each kind of element is changed by some request, the odd cell of a pair included. -/
theorem witness_changes :
    (regsOf (exec (.gprWrite32 31 1) State.reset)).map (·.readGpr 31) = some 1 ∧
    (regsOf (exec (.fprWrite64 30 0x100000002) State.reset)).map (fun r => (r.readFpr 30, r.readFpr 31)) = some (2, 1) ∧
    (regsOf (exec (.cp0Write 0 1) State.reset)).map (·.readCp0 0) = some 1 ∧
    (regsOf (exec (.pcWrite64 1) State.reset)).map (·.pc) = some 1 ∧
    (regsOf (exec (.mdWrite .lo 1) State.reset)).map (·.lo) = some 1 ∧
    (regsOf (exec (.llWrite true) State.reset)).map (·.llbit) = some true := by decide

/-- RequestReadsOnlyItsFootprint: two storages that agree on what a paired read reads, and differ elsewhere. -/
theorem witness_reads :
    (∀ p, p ∈ readsOf Config.hw (fprStart 0) (.fprRead64 8) →
      ((fprStart 0).writeFpr 8 0x9999999922222222).part p = (fprStart 0).part p) ∧
    (fprStart 0).writeFpr 8 0x9999999922222222 ≠ fprStart 0 := by decide

/-- SequenceLeavesLastWrittenValues: steps 5 to 7 of P3's pattern answer a next state. -/
theorem witness_sequence :
    (regsOf (performAll [.cp0Write 12 0x04000000, .fprWrite64 2 0x0123456789ABCDEF, .cp0Write 12 0,
      .fprWrite64 2 0xCAFEBABEDEADBEEF] State.reset)).map (fun r => (r.readFpr 2, r.readFpr 3)) =
      some (0x01234567DEADBEEF, 0xCAFEBABE) := by decide

/-- StreamPerformsItsRequestsInOrder: a stream of one encoded request and an idle step after it. -/
theorem witness_stream :
    ({ State.reset with input := [⟨true, encode (.pcWrite64 4)⟩, ⟨false, ⟨0, 0⟩⟩] } : State).input =
      [Instr.pcWrite64 4].map (fun i => ⟨true, encode i⟩) ++ [⟨false, ⟨0, 0⟩⟩] := rfl

/-- VariantAtHwIsTheMachine: a step of each kind. -/
theorem witness_variant : (respOf (step (ask gprStart 0x027 0))).isSome = true ∧
    faultOf (step (ask gprStart 0x0A7 0)) = some .oddPair := by decide

/-- UnknownResetReadsFault: the policy, an unwritten part that is read, and a record without GPR 0. -/
theorem witness_unknown :
    ({ Config.hw with resetPolicy := .unknown } : Config).resetPolicy = .unknown ∧
    lowPart .pc ∈ readsOf { Config.hw with resetPolicy := .unknown } Regs.reset .pcRead32 ∧
    lowPart .pc ∉ VState.reset.written ∧ (∀ b, (⟨.gpr 0, b⟩ : Part) ∉ VState.reset.written) := by decide

/-- UnknownResetReadsFault (third clause): a step of the variant that answers. -/
theorem witness_unknownStep :
    (match vstep { Config.hw with resetPolicy := .unknown } ⟨ask Regs.reset 0x061 5, []⟩ with
      | .next v => v.written = [⟨.gpr 1, false⟩, ⟨.gpr 1, true⟩]
      | .fault _ => False
      | .refused _ => False) := rfl

/-- UnknownResetHidesStoredValues: two storages that agree on the written parts and differ elsewhere. -/
theorem witness_hidden :
    (∀ p, p ∈ [lowPart .pc] → (Regs.reset.writePc 0x500000000).part p = Regs.reset.part p) ∧
    Regs.reset.writePc 0x500000000 ≠ Regs.reset := by decide

end Sys2Proof.Tests
end

section
/-! SUPPORT. Proofs of the scope statements: the variant at this hardware's parameters, and the views of a cell. -/

namespace Sys2Proof.Machine

/-! ## A step of the variant, by the input it meets -/

/-- With nothing presented, `fetch` drops the step's input and gives no request (R78). -/
theorem fetch_idle {s : State} (h : s.input = [] ∨ ∃ q rest, s.input = ⟨false, q⟩ :: rest) :
    fetch s = (none, { s with input := s.input.tail }) := by
  rcases h with h | ⟨q, rest, h⟩
  · have hs : { s with input := s.input.tail } = s := by cases s; cases h; rfl
    rw [hs]
    simp [fetch, h]
  · simp [fetch, h]

theorem fetch_request {s : State} {q : Request} {rest : List PortInput} (h : s.input = ⟨true, q⟩ :: rest) :
    fetch s = (some q, { s with input := rest }) := by
  simp [fetch, h]

theorem vstep_idle (cfg : Config) {v : VState}
    (h : v.base.input = [] ∨ ∃ q rest, v.base.input = ⟨false, q⟩ :: rest) :
    vstep cfg v = .next ⟨idle { v.base with input := v.base.input.tail }, v.written⟩ := by
  simp only [vstep, fetch_idle h]

theorem vstep_request (cfg : Config) {v : VState} {q : Request} {rest : List PortInput} {i : Instr}
    (h : v.base.input = ⟨true, q⟩ :: rest) (hd : decode q = some i) :
    vstep cfg v = vexec cfg i ⟨{ v.base with input := rest }, v.written⟩ := by
  simp only [vstep, fetch_request h, hd]

theorem vstep_reserved (cfg : Config) {v : VState} {q : Request} {rest : List PortInput}
    (h : v.base.input = ⟨true, q⟩ :: rest) (hd : decode q = none) :
    vstep cfg v = .fault (.violation .reservedEncoding) := by
  simp only [vstep, fetch_request h, hd]

/-! ## A request on the variant at this hardware's parameters -/

/-- Under `RESET_POLICY = ZERO` no read is blocked (R230). -/
@[simp] theorem blockedRead_hw (v : VState) (r : Regs) (i : Instr) : blockedRead Config.hw v r i = none := rfl

theorem vexec_hw_of_next {i : Instr} {v : VState} {t : State} (h : exec i v.base = .next t) :
    vexec Config.hw i v =
      .next ⟨t, record v.written ((writesOf Config.hw v.base.regs i).map Prod.fst)⟩ := by
  simp [vexec, h]

theorem vexec_hw_of_fault {i : Instr} {v : VState} {f : Fault} (h : exec i v.base = .fault f) :
    vexec Config.hw i v = .fault (.violation f) := by
  simp [vexec, h]

/-- Settles O50, by the kinds of step: both machines take the same input and perform the same request. -/
theorem variantAtHwIsTheMachine : Obligations.VariantAtHwIsTheMachine := by
  intro v
  rcases step_cases v.base with ⟨hin, hs⟩ | ⟨q, rest, i, hin, hd, hs⟩ | ⟨q, rest, hin, hd, hs⟩
  case inl =>
    refine ⟨fun t ht => ⟨v.written, ?_⟩, fun f hf => ?_⟩
    · cases hs.symm.trans ht
      exact vstep_idle _ hin
    · cases hs.symm.trans hf
  case inr.inl =>
    rw [hs, vstep_request _ hin hd]
    exact ⟨fun t ht => ⟨_, vexec_hw_of_next ht⟩, fun f hf => vexec_hw_of_fault hf⟩
  case inr.inr =>
    refine ⟨fun t ht => ?_, fun f hf => ?_⟩
    · cases hs.symm.trans ht
    · cases hs.symm.trans hf
      exact vstep_reserved _ hin hd

/-! ## Views of a cell -/

theorem byteOf_of_lt {k : Fin 8} (hk : k.val < 4) (v : Word) :
    byteOf v k = (low32 v).extractLsb' (8 * k.val) 8 := by
  ext j hj
  have hlow : 8 * k.val + j < 32 := by omega
  simp [byteOf, low32, hlow]

theorem byteOf_of_ge {k : Fin 8} (hk : 4 ≤ k.val) (v : Word) :
    byteOf v k = (high32 v).extractLsb' (8 * (k.val - 4)) 8 := by
  ext j hj
  have hhigh : 8 * (k.val - 4) + j < 32 := by omega
  have hbit : 32 + (8 * (k.val - 4) + j) = 8 * k.val + j := by omega
  simp [byteOf, high32, hhigh, hbit]

/-- A cell is its two halves (R8, R21). -/
theorem join_high32_low32 (v : Word) : join (high32 v) (low32 v) = v :=
  join_ext (low32_join _ _) (high32_join _ _)

/-- Settles O53, by the half of the cell the byte lies in. -/
theorem viewsAreLittleEndianBytes : Obligations.ViewsAreLittleEndianBytes := by
  intro v
  refine ⟨fun k => ?_, join_high32_low32 v, high32_zext64 _, low32_zext64 _⟩
  split
  next hk => exact byteOf_of_lt hk v
  next hk => exact byteOf_of_ge (Nat.le_of_not_lt hk) v

end Sys2Proof.Machine
end

section
/-! SUPPORT. Proofs of the state statements: what storage a completed request leaves (R36), the hard-wired register
(R22, R103), and the passive CP0 bank (R153, R154). -/

namespace Sys2Proof.Machine

/-! ## The storage a completed request leaves -/

/-- `RegsAfter r i r'`: request `i`, completing on storage `r`, leaves `r'`. One constructor per write of R36, two
for the two layouts of FPR_WRITE64 (R128), and one for all reads (R56). -/
inductive RegsAfter (r : Regs) : Instr → Regs → Prop where
  | read {i : Instr} (hread : isWrite i = false) : RegsAfter r i r
  | gprWrite32 (i : Idx) (v : Half) : RegsAfter r (.gprWrite32 i v) (r.writeGpr32 i v)
  | gprWrite64 (i : Idx) (v : Word) : RegsAfter r (.gprWrite64 i v) (r.writeGpr i v)
  | fprWrite32 (i : Idx) (v : Half) : RegsAfter r (.fprWrite32 i v) (r.writeFpr32 i v)
  | fprWrite64Direct (i : Idx) (v : Word) (hfr : r.fr Config.hw = true) :
      RegsAfter r (.fprWrite64 i v) (r.writeFpr i v)
  | fprWrite64Paired (i : Idx) (v : Word) (hfr : r.fr Config.hw = false) (heven : i.getLsbD 0 = false) :
      RegsAfter r (.fprWrite64 i v) ((r.writeFpr32 i (low32 v)).writeFpr32 (i + 1#5) (high32 v))
  | cp0Write (i : Idx) (v : Word) : RegsAfter r (.cp0Write i v) (r.writeCp0 i v)
  | pcWrite32 (v : Half) : RegsAfter r (.pcWrite32 v) (r.writePc32 v)
  | pcWrite64 (v : Word) : RegsAfter r (.pcWrite64 v) (r.writePc v)
  | mdWrite (k : MdSel) (v : Word) : RegsAfter r (.mdWrite k v) (r.writeMd k v)
  | llWrite (b : Bool) : RegsAfter r (.llWrite b) (r.writeLl b)

theorem regs_of_commit_eq_next {s t : State} {r : Regs} (h : commit s r = .next t) : t.regs = r := by
  rw [commit_eq_next.mp h]

/-- FPR_WRITE64 completes in one of its two layouts (R128). -/
theorem exec_fprWrite64_regsAfter {i : Idx} {v : Word} {s t : State} (h : exec (.fprWrite64 i v) s = .next t) :
    RegsAfter s.regs (.fprWrite64 i v) t.regs := by
  simp only [exec, execFprWrite64, fprWrite64With] at h
  rcases fprStore64_cases Config.hw s.regs i v with
    ⟨hfr, e⟩ | ⟨_, _, e⟩ | ⟨hfr, heven, _, e⟩ | ⟨_, _, hsplit, _⟩
  · rw [e] at h
    exact regs_of_commit_eq_next h ▸ .fprWrite64Direct i v hfr
  · rw [e] at h
    exact absurd h raise_ne_next
  · rw [e] at h
    exact regs_of_commit_eq_next h ▸ .fprWrite64Paired i v hfr heven
  · cases hsplit

/-- A read that completes leaves the storage as it was (R56). -/
theorem exec_read_keeps_regs {i : Instr} {s t : State} (hread : isWrite i = false) (h : exec i s = .next t) :
    t.regs = s.regs := by
  rcases exec_ends i s with ⟨_, v, e⟩ | ⟨hwrite, _⟩ | e
  · rw [answer_eq_next.mp (e.symm.trans h)]
  · simp [hread] at hwrite
  · exact absurd (e.symm.trans h) raise_ne_next

theorem exec_regsAfter {i : Instr} {s t : State} (h : exec i s = .next t) : RegsAfter s.regs i t.regs := by
  cases i with
  | gprRead32 | gprRead64 | fprRead32 | fprRead64 | cp0Read | pcRead32 | pcRead64 | mdRead | llRead =>
    rw [exec_read_keeps_regs rfl h]
    exact .read rfl
  | fprWrite64 i v => exact exec_fprWrite64_regsAfter h
  | gprWrite32 i v => exact regs_of_commit_eq_next h ▸ .gprWrite32 i v
  | gprWrite64 i v => exact regs_of_commit_eq_next h ▸ .gprWrite64 i v
  | fprWrite32 i v => exact regs_of_commit_eq_next h ▸ .fprWrite32 i v
  | cp0Write i v => exact regs_of_commit_eq_next h ▸ .cp0Write i v
  | pcWrite32 v => exact regs_of_commit_eq_next h ▸ .pcWrite32 v
  | pcWrite64 v => exact regs_of_commit_eq_next h ▸ .pcWrite64 v
  | mdWrite k v => exact regs_of_commit_eq_next h ▸ .mdWrite k v
  | llWrite b => exact regs_of_commit_eq_next h ▸ .llWrite b

/-! ## Which request can change a cell -/

theorem RegsAfter.gpr_changed {r r' : Regs} {i : Instr} (h : RegsAfter r i r') {j : Idx}
    (hj : r'.readGpr j ≠ r.readGpr j) : j ≠ 0 ∧ ((∃ v, i = .gprWrite32 j v) ∨ ∃ v, i = .gprWrite64 j v) := by
  cases h with
  | gprWrite32 i v =>
    rw [Regs.readGpr_writeGpr32] at hj
    obtain ⟨rfl, hne⟩ := (ite_ne_right_iff.mp hj).1
    exact ⟨hne, .inl ⟨v, rfl⟩⟩
  | gprWrite64 i v =>
    rw [Regs.readGpr_writeGpr] at hj
    obtain ⟨rfl, hne⟩ := (ite_ne_right_iff.mp hj).1
    exact ⟨hne, .inr ⟨v, rfl⟩⟩
  | _ => simp [Regs.writeFpr32, Regs.writePc32] at hj

theorem RegsAfter.fpr_changed {r r' : Regs} {i : Instr} (h : RegsAfter r i r') {j : Idx}
    (hj : r'.readFpr j ≠ r.readFpr j) :
    (∃ v, i = .fprWrite32 j v) ∨ (∃ v, i = .fprWrite64 j v) ∨
      ∃ e v, i = .fprWrite64 e v ∧ e + 1 = j ∧ e.getLsbD 0 = false ∧ r.fr Config.hw = false := by
  cases h with
  | fprWrite32 i v =>
    rw [Regs.readFpr_writeFpr32] at hj
    exact .inl ⟨v, (ite_ne_right_iff.mp hj).1 ▸ rfl⟩
  | fprWrite64Direct i v hfr =>
    rw [Regs.readFpr_writeFpr] at hj
    exact .inr (.inl ⟨v, (ite_ne_right_iff.mp hj).1 ▸ rfl⟩)
  | fprWrite64Paired i v hfr heven =>
    by_cases hodd : j = i + 1#5
    · exact .inr (.inr ⟨i, v, rfl, hodd.symm, heven, hfr⟩)
    · rw [Regs.readFpr_writeFpr32, if_neg hodd, Regs.readFpr_writeFpr32] at hj
      exact .inr (.inl ⟨v, (ite_ne_right_iff.mp hj).1 ▸ rfl⟩)
  | _ => simp [Regs.writeGpr32, Regs.writePc32] at hj

theorem RegsAfter.cp0_changed {r r' : Regs} {i : Instr} (h : RegsAfter r i r') {j : Idx}
    (hj : r'.readCp0 j ≠ r.readCp0 j) : ∃ v, i = .cp0Write j v := by
  cases h with
  | cp0Write i v =>
    rw [Regs.readCp0_writeCp0] at hj
    exact ⟨v, (ite_ne_right_iff.mp hj).1 ▸ rfl⟩
  | _ => simp [Regs.writeGpr32, Regs.writeFpr32, Regs.writePc32] at hj

theorem RegsAfter.pc_changed {r r' : Regs} {i : Instr} (h : RegsAfter r i r') (hpc : r'.pc ≠ r.pc) :
    (∃ v, i = .pcWrite32 v) ∨ ∃ v, i = .pcWrite64 v := by
  cases h with
  | pcWrite32 v => exact .inl ⟨v, rfl⟩
  | pcWrite64 v => exact .inr ⟨v, rfl⟩
  | _ => simp [Regs.writeGpr32, Regs.writeFpr32] at hpc

theorem RegsAfter.md_changed {r r' : Regs} {i : Instr} (h : RegsAfter r i r') {k : MdSel}
    (hk : r'.readMd k ≠ r.readMd k) : ∃ v, i = .mdWrite k v := by
  cases h with
  | mdWrite m v =>
    rw [Regs.readMd_writeMd] at hk
    exact ⟨v, (ite_ne_right_iff.mp hk).1 ▸ rfl⟩
  | _ => simp [Regs.writeGpr32, Regs.writeFpr32, Regs.writePc32] at hk

theorem RegsAfter.ll_changed {r r' : Regs} {i : Instr} (h : RegsAfter r i r') (hll : r'.llbit ≠ r.llbit) :
    ∃ b, i = .llWrite b := by
  cases h with
  | llWrite b => exact ⟨b, rfl⟩
  | _ => simp [Regs.writeGpr32, Regs.writeFpr32, Regs.writePc32] at hll

/-- Settles O45, cell kind by cell kind, from the storage each request leaves. -/
theorem onlyNamedWritesChangeACell : Obligations.OnlyNamedWritesChangeACell := by
  intro i s t h
  have hafter := exec_regsAfter h
  obtain ⟨hinput, hidles, _⟩ := exec_next_port h
  exact ⟨fun _ => hafter.gpr_changed, fun _ => hafter.fpr_changed, fun _ => hafter.cp0_changed, hafter.pc_changed,
    fun _ => hafter.md_changed, hafter.ll_changed, hinput, hidles⟩

/-! ## The hard-wired register -/

/-- No request changes GPR 0 (R103). -/
theorem exec_keeps_gpr_zero {i : Instr} {s t : State} (h : exec i s = .next t) :
    t.regs.readGpr 0 = s.regs.readGpr 0 := by
  by_contra hchanged
  exact ((exec_regsAfter h).gpr_changed hchanged).1 rfl

/-- Settles O17, by the kinds of step: an idle step keeps the storage, and no request changes GPR 0. -/
theorem zeroRegisterKeptByEveryStep : Obligations.ZeroRegisterKeptByEveryStep := by
  intro s t hz h
  rcases step_cases s with ⟨_, hs⟩ | ⟨q, rest, i, _, _, hs⟩ | ⟨q, rest, _, _, hs⟩
  · cases hs.symm.trans h
    exact hz
  · exact (exec_keeps_gpr_zero (hs.symm.trans h)).trans hz
  · cases hs.symm.trans h

/-- Settles O16: every cell of a zero bank reads 0. -/
theorem zeroRegisterHoldsAtReset : Obligations.ZeroRegisterHoldsAtReset :=
  cellAt_zero 0

/-- What every step keeps of the storage, a run keeps. -/
theorem RunsTo.keeps {P : Regs → Prop} (hstep : ∀ s t : State, P s.regs → step s = .next t → P t.regs)
    {n : Nat} {s t : State} (h : RunsTo n s t) (hs : P s.regs) : P t.regs := by
  induction n generalizing s with
  | zero => exact (show s = t from h) ▸ hs
  | succ n ih =>
    obtain ⟨u, hu, hrest⟩ := h
    exact ih hrest (hstep s u hs hu)

/-- Where the invariant holds, both reads of GPR 0 answer 0. -/
theorem exec_gprRead_zero {t : State} (hz : ZeroRegHolds t.regs) :
    exec (.gprRead32 0) t = .next { t with rsp := ⟨0, .ok⟩ } ∧
      exec (.gprRead64 0) t = .next { t with rsp := ⟨0, .ok⟩ } := by
  have h32 : exec (.gprRead32 0) t = answer t (zext64 (low32 (t.regs.readGpr 0))) := rfl
  have h64 : exec (.gprRead64 0) t = answer t (t.regs.readGpr 0) := rfl
  rw [h32, h64, show t.regs.readGpr 0 = 0 from hz]
  exact ⟨rfl, rfl⟩

/-- Settles O56: the invariant of O17 holds at reset whatever is presented, so it holds after every run. -/
theorem resetIsPairedAndZeroRegisterStays : Obligations.ResetIsPairedAndZeroRegisterStays := by
  refine ⟨by decide, fun n inputs t hrun => ?_⟩
  have hz : ZeroRegHolds t.regs := hrun.keeps zeroRegisterKeptByEveryStep zeroRegisterHoldsAtReset
  exact ⟨hz, exec_gprRead_zero hz⟩

/-! ## CP0 as a passive store -/

/-- The storage with another CP0 bank. -/
def Regs.withCp0 (r : Regs) (c : Bank) : Regs := { r with cp0 := c }

/-- The machine with another CP0 bank. -/
def State.withCp0 (s : State) (c : Bank) : State := { s with regs := s.regs.withCp0 c }

@[simp] theorem State.withCp0_regs (s : State) (c : Bank) : (s.withCp0 c).regs = s.regs.withCp0 c := rfl

@[simp] theorem Regs.readGpr_withCp0 (r : Regs) (c : Bank) (i : Idx) :
    (r.withCp0 c).readGpr i = r.readGpr i := rfl

@[simp] theorem Regs.readFpr_withCp0 (r : Regs) (c : Bank) (i : Idx) :
    (r.withCp0 c).readFpr i = r.readFpr i := rfl

theorem Regs.writeGpr_withCp0 (r : Regs) (c : Bank) (i : Idx) (v : Word) :
    (r.withCp0 c).writeGpr i v = (r.writeGpr i v).withCp0 c := by
  unfold Regs.writeGpr; split <;> rfl

theorem Regs.writeMd_withCp0 (r : Regs) (c : Bank) (k : MdSel) (v : Word) :
    (r.withCp0 c).writeMd k v = (r.writeMd k v).withCp0 c := by
  cases k <;> rfl

/-- The 64-bit FPR read depends on CP0 through FR only (R126). -/
theorem fprLoad64_withCp0 {cfg : Config} {r : Regs} {c : Bank} (hfr : (r.withCp0 c).fr cfg = r.fr cfg) (i : Idx) :
    fprLoad64 cfg (r.withCp0 c) i = fprLoad64 cfg r i := by
  simp only [fprLoad64, hfr, Regs.readFpr_withCp0]

/-- The 64-bit FPR write depends on CP0 through FR only (R126), and leaves CP0 alone. -/
theorem fprStore64_withCp0 {cfg : Config} {r : Regs} {c : Bank} (hfr : (r.withCp0 c).fr cfg = r.fr cfg) (i : Idx)
    (v : Word) : fprStore64 cfg (r.withCp0 c) i v = (fprStore64 cfg r i v).map (·.withCp0 c) := by
  simp only [fprStore64, hfr]
  split
  · rfl
  · split
    · rfl
    · cases cfg.pairedSplit <;> rfl

/-- Two banks `b`, `c` have become `b'`, `c'`, which differ at most in cells where both are as before. -/
def DifferOnlyWhereKept (b c b' c' : Bank) : Prop :=
  ∀ j, cellAt c' j = cellAt b' j ∨ (cellAt c' j = cellAt c j ∧ cellAt b' j = cellAt b j)

theorem differOnlyWhereKept_refl (b c : Bank) : DifferOnlyWhereKept b c b c :=
  fun _ => .inr ⟨rfl, rfl⟩

theorem differOnlyWhereKept_setCell (b c : Bank) (i : Idx) (v : Word) :
    DifferOnlyWhereKept b c (setCell b i v) (setCell c i v) := by
  intro j
  by_cases h : j = i
  · exact .inl (by rw [h, cellAt_setCell_self, cellAt_setCell_self])
  · exact .inr ⟨cellAt_setCell_of_ne c h v, cellAt_setCell_of_ne b h v⟩

/-- A request ends alike on `s` and on `s.withCp0 c`: the same answer, the same storage committed but for CP0 cells that
differed, or the same violation. -/
inductive EndsAlike (s : State) (c : Bank) : Result → Result → Prop where
  | answer (v : Word) : EndsAlike s c (answer s v) (answer (s.withCp0 c) v)
  | commit (r : Regs) (c' : Bank) (hcp0 : DifferOnlyWhereKept s.regs.cp0 c r.cp0 c') :
      EndsAlike s c (commit s r) (commit (s.withCp0 c) (r.withCp0 c'))
  | raise (f : Fault) : EndsAlike s c (raise f) (raise f)

/-- A write that leaves CP0 alone ends alike. -/
theorem EndsAlike.commit_of_cp0_eq {s : State} {r : Regs} (c : Bank) (h : r.cp0 = s.regs.cp0) :
    EndsAlike s c (Machine.commit s r) (Machine.commit (s.withCp0 c) (r.withCp0 c)) :=
  .commit r c (h ▸ differOnlyWhereKept_refl _ _)

theorem exec_fprRead64_endsAlike {s : State} {c : Bank}
    (hfr : (s.regs.withCp0 c).fr Config.hw = s.regs.fr Config.hw) (i : Idx) :
    EndsAlike s c (exec (.fprRead64 i) s) (exec (.fprRead64 i) (s.withCp0 c)) := by
  simp only [exec, execFprRead64, fprRead64With, State.withCp0_regs, fprLoad64_withCp0 hfr]
  cases fprLoad64 Config.hw s.regs i with
  | ok v => exact .answer v
  | error f => exact .raise f

theorem fprStore64_cp0 {cfg : Config} {r r' : Regs} {i : Idx} {v : Word} (h : fprStore64 cfg r i v = .ok r') :
    r'.cp0 = r.cp0 := by
  rcases fprStore64_cases cfg r i v with ⟨_, e⟩ | ⟨_, _, e⟩ | ⟨_, _, _, e⟩ | ⟨_, _, _, e⟩ <;>
    cases e.symm.trans h <;> rfl

theorem exec_fprWrite64_endsAlike {s : State} {c : Bank}
    (hfr : (s.regs.withCp0 c).fr Config.hw = s.regs.fr Config.hw) (i : Idx) (v : Word) :
    EndsAlike s c (exec (.fprWrite64 i v) s) (exec (.fprWrite64 i v) (s.withCp0 c)) := by
  simp only [exec, execFprWrite64, fprWrite64With, State.withCp0_regs, fprStore64_withCp0 hfr]
  cases h : fprStore64 Config.hw s.regs i v with
  | ok r => exact .commit_of_cp0_eq c (fprStore64_cp0 h)
  | error f => exact .raise f

/-- Every request but CP0_READ ends alike under another CP0 bank with the same FR (R153, R154). -/
theorem exec_endsAlike {s : State} {c : Bank} {i : Instr}
    (hfr : (s.regs.withCp0 c).fr Config.hw = s.regs.fr Config.hw) (hi : ∀ r, i ≠ .cp0Read r) :
    EndsAlike s c (exec i s) (exec i (s.withCp0 c)) := by
  cases i with
  | gprRead32 | gprRead64 | fprRead32 | pcRead32 | pcRead64 | mdRead | llRead => exact .answer _
  | cp0Read r => exact absurd rfl (hi r)
  | fprRead64 i => exact exec_fprRead64_endsAlike hfr i
  | fprWrite64 i v => exact exec_fprWrite64_endsAlike hfr i v
  | cp0Write i v => exact .commit (s.regs.writeCp0 i v) _ (differOnlyWhereKept_setCell _ _ i v)
  | fprWrite32 | pcWrite32 | pcWrite64 | llWrite => exact .commit_of_cp0_eq c rfl
  | gprWrite32 i v =>
    simp only [exec, execGprWrite32, Regs.writeGpr32, State.withCp0_regs, Regs.writeGpr_withCp0, Regs.readGpr_withCp0]
    exact .commit_of_cp0_eq c (Regs.writeGpr_cp0 _ _ _)
  | gprWrite64 i v =>
    simp only [exec, execGprWrite64, State.withCp0_regs, Regs.writeGpr_withCp0]
    exact .commit_of_cp0_eq c (Regs.writeGpr_cp0 _ _ _)
  | mdWrite k v =>
    simp only [exec, execMdWrite, State.withCp0_regs, Regs.writeMd_withCp0]
    exact .commit_of_cp0_eq c (Regs.writeMd_cp0 _ _ _)

theorem EndsAlike.next {s t : State} {c : Bank} {a b : Result} (h : EndsAlike s c a b) (ht : a = .next t) :
    ∃ u, b = .next u ∧ u = t.withCp0 u.regs.cp0 ∧ DifferOnlyWhereKept s.regs.cp0 c t.regs.cp0 u.regs.cp0 := by
  cases h with
  | answer v =>
    cases ht
    exact ⟨_, rfl, rfl, differOnlyWhereKept_refl _ _⟩
  | commit r c' hcp0 =>
    cases ht
    exact ⟨_, rfl, rfl, hcp0⟩
  | raise f => exact absurd ht raise_ne_next

theorem EndsAlike.fault {s : State} {c : Bank} {a b : Result} {f : Fault} (h : EndsAlike s c a b)
    (hf : a = .fault f) : b = .fault f := by
  cases h with
  | answer v => exact absurd hf answer_ne_fault
  | commit r c' _ => exact absurd hf commit_ne_fault
  | raise f => exact hf

/-- Settles O37: under both CP0 banks the request ends alike. -/
theorem cp0IsPassiveButForFr : Obligations.Cp0IsPassiveButForFr := by
  intro s c i hfr hi
  have halike : EndsAlike s c (exec i s) (exec i (s.withCp0 c)) := exec_endsAlike hfr hi
  exact ⟨fun _ => halike.next, fun _ => halike.fault⟩

end Sys2Proof.Machine
end

section
/-! SUPPORT. Proofs of the memory statements: what a request writes and reads, part by part (R56, R58), the stream as
the sequence of its requests (R58, R236), and the hidden cells of `RESET_POLICY = UNKNOWN` (R232). The footprint laws
are proved for all parameters of R7, because the variant machine needs them there. -/

namespace Sys2Proof.Machine

/-! ## The storage by its parts -/

/-- The contents of a storage element as a word; the flag zero-extended, as LL_READ shows it (R176). -/
def Regs.word (r : Regs) : CellName → Word
  | .gpr i => r.readGpr i
  | .fpr i => r.readFpr i
  | .cp0 i => r.readCp0 i
  | .pc    => r.pc
  | .md k  => r.readMd k
  | .ll    => zextBit r.llbit

theorem Regs.part_lowPart (r : Regs) (c : CellName) : r.part (lowPart c) = low32 (r.word c) := by
  cases c <;> rfl

theorem Regs.part_highPart (r : Regs) (c : CellName) : r.part (highPart c) = high32 (r.word c) := by
  cases c <;> rfl

/-- Two storages hold the same in every part of the list. -/
def AgreeOn (ps : List Part) (r' r : Regs) : Prop := ∀ p ∈ ps, r'.part p = r.part p

theorem agreeOn_cons {p : Part} {ps : List Part} {r' r : Regs} :
    AgreeOn (p :: ps) r' r ↔ r'.part p = r.part p ∧ AgreeOn ps r' r :=
  List.forall_mem_cons

theorem agreeOn_refl (ps : List Part) (r : Regs) : AgreeOn ps r r := fun _ _ => rfl

theorem AgreeOn.low32_word {c : CellName} {ps : List Part} {r' r : Regs} (h : AgreeOn (lowPart c :: ps) r' r) :
    low32 (r'.word c) = low32 (r.word c) := by
  simpa only [Regs.part_lowPart] using (agreeOn_cons.mp h).1

theorem AgreeOn.word {c : CellName} {r' r : Regs} (h : AgreeOn (wholeCell c) r' r) : r'.word c = r.word c := by
  have hhigh : high32 (r'.word c) = high32 (r.word c) := by
    simpa only [Regs.part_highPart] using h (highPart c) (.tail _ (.head _))
  exact join_ext h.low32_word hhigh

theorem Bank.ext_cellAt {b c : Bank} (h : ∀ i, cellAt b i = cellAt c i) : b = c := by
  refine Vector.ext fun k hk => ?_
  have hval : (BitVec.ofNat 5 k).toNat = k := Nat.mod_eq_of_lt hk
  simpa only [cellAt, hval] using h (BitVec.ofNat 5 k)

/-- The parts are the whole storage. -/
theorem Regs.ext_part {r' r : Regs} (h : ∀ p, r'.part p = r.part p) : r' = r := by
  have hword (c : CellName) : r'.word c = r.word c := AgreeOn.word fun p _ => h p
  have hgpr : r'.gpr = r.gpr := Bank.ext_cellAt fun i => hword (.gpr i)
  have hfpr : r'.fpr = r.fpr := Bank.ext_cellAt fun i => hword (.fpr i)
  have hcp0 : r'.cp0 = r.cp0 := Bank.ext_cellAt fun i => hword (.cp0 i)
  have hpc : r'.pc = r.pc := hword .pc
  have hhi : r'.hi = r.hi := hword (.md .hi)
  have hlo : r'.lo = r.lo := hword (.md .lo)
  have hll : r'.llbit = r.llbit := Regs.llbit_of_part (h (lowPart .ll))
  cases r'; cases r
  simp_all only

theorem State.ext_fields {t s : State} (hregs : t.regs = s.regs) (hinput : t.input = s.input)
    (hidles : t.idles = s.idles) (hrsp : t.rsp = s.rsp) : t = s := by
  cases t; cases s
  simp_all only

/-! ## What a list of writes leaves -/

theorem written_of_notMem {ws : List (Part × Half)} {p : Part} (h : p ∉ ws.map Prod.fst) (old : Half) :
    written ws p old = old := by
  induction ws with
  | nil => rfl
  | cons w ws ih =>
    simp only [List.map_cons, List.mem_cons, not_or] at h
    rw [written_cons, if_neg h.1, ih h.2]

/-- Where the list writes, it does not matter what was there before. -/
theorem written_of_mem {ws : List (Part × Half)} {p : Part} (h : p ∈ ws.map Prod.fst) (old old' : Half) :
    written ws p old = written ws p old' := by
  induction ws with
  | nil => cases h
  | cons w ws ih =>
    rw [written_cons, written_cons]
    split
    next => rfl
    next hne => exact ih ((List.mem_cons.mp h).resolve_left hne)

theorem written_written (ws : List (Part × Half)) (p : Part) (old : Half) :
    written ws p (written ws p old) = written ws p old := by
  by_cases h : p ∈ ws.map Prod.fst
  · exact written_of_mem h _ _
  · exact written_of_notMem h _

/-! ## The footprint depends on FR only -/

theorem fprParts64_of_direct {cfg : Config} {r : Regs} (hfr : r.fr cfg = true) (i : Idx) :
    fprParts64 cfg r i = wholeCell (.fpr i) := by
  simp [fprParts64, hfr]

theorem fprParts64_of_exact {cfg : Config} {r : Regs} {i : Idx} (hfr : r.fr cfg = false)
    (heven : i.getLsbD 0 = false) (hsplit : cfg.pairedSplit = .exactSplit) :
    fprParts64 cfg r i = [lowPart (.fpr i), lowPart (.fpr (i + 1#5))] := by
  simp only [fprParts64, hfr, heven, hsplit, Bool.false_eq_true, if_false]

theorem fprParts64_of_contiguous {cfg : Config} {r : Regs} {i : Idx} (hfr : r.fr cfg = false)
    (heven : i.getLsbD 0 = false) (hsplit : cfg.pairedSplit = .contiguous) :
    fprParts64 cfg r i = wholeCell (.fpr i) := by
  simp only [fprParts64, hfr, heven, hsplit, Bool.false_eq_true, if_false]

theorem fprParts64_congr {cfg : Config} {r' r : Regs} (hfr : r'.fr cfg = r.fr cfg) (i : Idx) :
    fprParts64 cfg r' i = fprParts64 cfg r i := by
  simp only [fprParts64, hfr]

/-- A 64-bit FPR access touches FPR cells only. -/
theorem cp0_notMem_fprParts64 (cfg : Config) (r : Regs) (i j : Idx) (u : Bool) :
    (⟨.cp0 j, u⟩ : Part) ∉ fprParts64 cfg r i := by
  unfold fprParts64
  split
  · simp [wholeCell, lowPart, highPart]
  · split
    · exact List.not_mem_nil
    · split <;> simp [wholeCell, lowPart, highPart]

theorem readsOf_congr {cfg : Config} {r' r : Regs} (hfr : r'.fr cfg = r.fr cfg) (i : Instr) :
    readsOf cfg r' i = readsOf cfg r i := by
  cases i with
  | fprRead64 i => exact congrArg (frPart cfg :: ·) (fprParts64_congr hfr i)
  | _ => rfl

/-- A request whose writes depend on FR reads FR. -/
theorem writesOf_of_agreeOn {cfg : Config} {r' r : Regs} {i : Instr} (h : AgreeOn (readsOf cfg r i) r' r) :
    writesOf cfg r' i = writesOf cfg r i := by
  cases i with
  | fprWrite64 i v =>
    have hfr : r'.fr cfg = r.fr cfg := Regs.fr_of_part (agreeOn_cons.mp h).1
    exact congrArg (List.zip · [low32 v, high32 v]) (fprParts64_congr hfr i)
  | _ => rfl

/-- No request writes what it reads. -/
theorem written_writesOf_of_mem_readsOf {cfg : Config} {r : Regs} {i : Instr} {p : Part}
    (hp : p ∈ readsOf cfg r i) (old : Half) : written (writesOf cfg r i) p old = old := by
  cases i with
  | gprRead32 | gprRead64 | fprRead32 | fprRead64 | cp0Read | pcRead32 | pcRead64 | mdRead | llRead => rfl
  | gprWrite32 | gprWrite64 | fprWrite32 | cp0Write | pcWrite32 | pcWrite64 | mdWrite | llWrite => cases hp
  | fprWrite64 i v =>
    cases List.mem_singleton.mp hp
    refine written_of_notMem (fun hmem => ?_) old
    obtain ⟨w, hw, hfst⟩ := List.mem_map.mp hmem
    exact cp0_notMem_fprParts64 cfg r i _ _ (hfst ▸ (List.of_mem_zip hw).1)

/-! ## What a request writes -/

theorem part_fprStore64 {cfg : Config} {r r' : Regs} {i : Idx} {v : Word} (h : fprStore64 cfg r i v = .ok r')
    (p : Part) : r'.part p = written ((fprParts64 cfg r i).zip [low32 v, high32 v]) p (r.part p) := by
  rcases fprStore64_cases cfg r i v with
    ⟨hfr, e⟩ | ⟨_, _, e⟩ | ⟨hfr, heven, hsplit, e⟩ | ⟨hfr, heven, hsplit, e⟩
  · cases e.symm.trans h
    rw [fprParts64_of_direct hfr]
    exact Regs.part_writeFpr r i v p
  · cases e.symm.trans h
  · cases e.symm.trans h
    rw [fprParts64_of_exact hfr heven hsplit, Regs.part_writeFpr32, Regs.part_writeFpr32]
    by_cases hp : p = lowPart (.fpr (i + 1#5))
    · simp [hp, written_cons, lowPart]
    · simp [hp, written_cons]
  · cases e.symm.trans h
    rw [fprParts64_of_contiguous hfr heven hsplit]
    exact Regs.part_writeFpr r i v p

/-- Under all parameters a request writes exactly its footprint. -/
theorem execWith_part {cfg : Config} {i : Instr} {s t : State} (h : execWith cfg i s = .next t) (p : Part) :
    t.regs.part p = written (writesOf cfg s.regs i) p (s.regs.part p) := by
  cases i with
  | gprRead32 | gprRead64 | fprRead32 | cp0Read | pcRead32 | pcRead64 | mdRead | llRead => cases h; rfl
  | fprRead64 i =>
    simp only [execWith, fprRead64With] at h
    split at h
    next => cases h; rfl
    next => cases h
  | fprWrite64 i v =>
    simp only [execWith, fprWrite64With] at h
    split at h
    next hstore =>
      cases h
      exact part_fprStore64 hstore p
    next => cases h
  | gprWrite32 i v =>
    cases h
    by_cases hi : i = 0#5
    · subst hi; rfl
    · exact (Regs.part_writeGpr32 hi _ v p).trans (by simp [writesOf, hi])
  | gprWrite64 i v =>
    cases h
    by_cases hi : i = 0#5
    · subst hi; rfl
    · exact (Regs.part_writeGpr hi _ v p).trans (by simp [writesOf, hi])
  | fprWrite32 i v => cases h; exact Regs.part_writeFpr32 _ i v p
  | cp0Write i v => cases h; exact Regs.part_writeCp0 _ i v p
  | pcWrite32 v => cases h; exact Regs.part_writePc32 _ v p
  | pcWrite64 v => cases h; exact Regs.part_writePc _ v p
  | mdWrite k v => cases h; exact Regs.part_writeMd _ k v p
  | llWrite b => cases h; exact Regs.part_writeLl _ b p

/-- Settles O46: it is `execWith_part` at this hardware's parameters. -/
theorem requestWritesExactlyItsFootprint : Obligations.RequestWritesExactlyItsFootprint := by
  intro i s t h
  exact execWith_part ((execWith_hw i s).trans h)

/-! ## What a request reads -/

/-- A request ends alike on `s` and on `u`: the same answer, two storages committed, or the same violation. -/
inductive AnswersAlike (s u : State) : Result → Result → Prop where
  | answer {v w : Word} (hvalue : w = v) : AnswersAlike s u (answer s v) (answer u w)
  | commit (r r' : Regs) : AnswersAlike s u (commit s r) (commit u r')
  | raise (f : Fault) : AnswersAlike s u (raise f) (raise f)

theorem AnswersAlike.next {s u t : State} {a b : Result} (h : AnswersAlike s u a b) (ht : a = .next t) :
    ∃ t', b = .next t' ∧ t'.rsp = t.rsp := by
  cases h with
  | answer hvalue =>
    cases ht
    exact ⟨_, rfl, by rw [hvalue]⟩
  | commit r r' =>
    cases ht
    exact ⟨_, rfl, rfl⟩
  | raise f => exact absurd ht raise_ne_next

theorem AnswersAlike.fault {s u : State} {a b : Result} {f : Fault} (h : AnswersAlike s u a b)
    (hf : a = .fault f) : b = .fault f := by
  cases h with
  | answer _ => exact absurd hf answer_ne_fault
  | commit r r' => exact absurd hf commit_ne_fault
  | raise f => exact hf

theorem AnswersAlike.ne_refused {s u : State} {a b : Result} (h : AnswersAlike s u a b) (x : Refusal) :
    a ≠ .refused x := by
  cases h <;> nofun

theorem AnswersAlike.next_port {s u t : State} {a b : Result} (h : AnswersAlike s u a b) (ht : a = .next t) :
    t.input = s.input ∧ t.idles = s.idles := by
  cases h <;> cases ht <;> exact ⟨rfl, rfl⟩

/-- The 64-bit FPR read sees FR and its parts only. -/
theorem fprLoad64_of_agreeOn {cfg : Config} {r' r : Regs} {i : Idx}
    (h : AgreeOn (frPart cfg :: fprParts64 cfg r i) r' r) : fprLoad64 cfg r' i = fprLoad64 cfg r i := by
  obtain ⟨hfrPart, hparts⟩ := agreeOn_cons.mp h
  have hfr' : r'.fr cfg = r.fr cfg := Regs.fr_of_part hfrPart
  rcases fprLoad64_cases cfg r i with
    ⟨hfr, _⟩ | ⟨hfr, hodd, _⟩ | ⟨hfr, heven, hsplit, _⟩ | ⟨hfr, heven, hsplit, _⟩
  · rw [fprParts64_of_direct hfr] at hparts
    have hcell : r'.readFpr i = r.readFpr i := hparts.word
    simp only [fprLoad64, hfr', hcell, hfr, if_true]
  · simp only [fprLoad64, hfr', hfr, hodd, Bool.false_eq_true, if_false, if_true]
  · rw [fprParts64_of_exact hfr heven hsplit] at hparts
    have hlow : low32 (r'.readFpr i) = low32 (r.readFpr i) := hparts.low32_word
    have hhigh : low32 (r'.readFpr (i + 1#5)) = low32 (r.readFpr (i + 1#5)) :=
      (agreeOn_cons.mp hparts).2.low32_word
    simp only [fprLoad64, hfr', hfr, hsplit, hlow, hhigh, Bool.false_eq_true, if_false]
  · rw [fprParts64_of_contiguous hfr heven hsplit] at hparts
    have hcell : r'.readFpr i = r.readFpr i := hparts.word
    simp only [fprLoad64, hfr', hsplit, hcell]

/-- The 64-bit FPR write raises or commits by FR alone. -/
theorem fprWrite64With_answersAlike {cfg : Config} {s u : State} (hfr : u.regs.fr cfg = s.regs.fr cfg) (i : Idx)
    (v : Word) : AnswersAlike s u (fprWrite64With cfg i v s) (fprWrite64With cfg i v u) := by
  simp only [fprWrite64With, fprStore64, hfr]
  cases s.regs.fr cfg with
  | true => exact .commit _ _
  | false =>
    cases i.getLsbD 0 with
    | true => exact .raise _
    | false => cases cfg.pairedSplit <;> exact .commit _ _

/-- Under all parameters a request sees nothing but the parts it reads. -/
theorem execWith_answersAlike {cfg : Config} {i : Instr} {s u : State}
    (h : AgreeOn (readsOf cfg s.regs i) u.regs s.regs) :
    AnswersAlike s u (execWith cfg i s) (execWith cfg i u) := by
  cases i with
  | gprRead32 | fprRead32 | pcRead32 => exact .answer (congrArg zext64 h.low32_word)
  | gprRead64 | cp0Read | pcRead64 | mdRead => exact .answer h.word
  | llRead => exact .answer (congrArg zextBit (Regs.llbit_of_part (agreeOn_cons.mp h).1))
  | fprRead64 i =>
    simp only [execWith, fprRead64With, fprLoad64_of_agreeOn h]
    cases fprLoad64 cfg s.regs i with
    | ok v => exact .answer rfl
    | error f => exact .raise f
  | fprWrite64 i v => exact fprWrite64With_answersAlike (Regs.fr_of_part (agreeOn_cons.mp h).1) i v
  | gprWrite32 | gprWrite64 | fprWrite32 | cp0Write | pcWrite32 | pcWrite64 | mdWrite | llWrite => exact .commit _ _

theorem exec_answersAlike {i : Instr} {s u : State} (h : AgreeOn (readsOf Config.hw s.regs i) u.regs s.regs) :
    AnswersAlike s u (exec i s) (exec i u) := by
  simpa only [execWith_hw] using execWith_answersAlike h

/-- Settles O47: on states that agree on what the request reads, it ends alike. -/
theorem requestReadsOnlyItsFootprint : Obligations.RequestReadsOnlyItsFootprint := by
  intro i s u h
  have halike : AnswersAlike s u (exec i s) (exec i u) := exec_answersAlike h
  exact ⟨fun _ => halike.next, fun _ => halike.fault⟩

/-! ## Single requests -/

/-- Settles O43: of the fields of a state, a read that completes replaces the response alone. -/
theorem readsChangeOnlyTheResponse : Obligations.ReadsChangeOnlyTheResponse := by
  intro i s t hread h
  obtain ⟨hinput, hidles, _⟩ := exec_next_port h
  exact State.ext_fields (exec_read_keeps_regs hread h) hinput hidles rfl

/-- Settles O44. The request has written nothing that it reads, so the second time it gives the same answer and writes
the same values over themselves. -/
theorem requestsAreIdempotent : Obligations.RequestsAreIdempotent := by
  intro i s t h
  have hpart : ∀ p, t.regs.part p = written (writesOf Config.hw s.regs i) p (s.regs.part p) :=
    requestWritesExactlyItsFootprint i s t h
  have hreads : AgreeOn (readsOf Config.hw s.regs i) t.regs s.regs := fun p hp =>
    (hpart p).trans (written_writesOf_of_mem_readsOf hp _)
  obtain ⟨t', h', hrsp⟩ := (exec_answersAlike hreads).next h
  have hregs : t'.regs = t.regs := Regs.ext_part fun p => by
    rw [requestWritesExactlyItsFootprint i t t' h' p, writesOf_of_agreeOn hreads, hpart p, written_written]
  obtain ⟨hinput, hidles, _⟩ := exec_next_port h'
  rw [h', State.ext_fields hregs hinput hidles hrsp]

/-! ## Sequences of requests -/

theorem performAll_cons_eq_next {i : Instr} {is : List Instr} {s t : State} :
    performAll (i :: is) s = .next t ↔ ∃ u, exec i s = .next u ∧ performAll is u = .next t := by
  cases h : exec i s <;> simp [performAll, h]

theorem lastWritten_cons_of_next {i : Instr} {s u : State} (h : exec i s = .next u) (is : List Instr) (p : Part)
    (old : Half) :
    lastWritten (i :: is) s p old = lastWritten is u p (written (writesOf Config.hw s.regs i) p old) := by
  simp only [lastWritten, h]

/-- Settles O48, by induction on the sequence: each request writes its footprint (O46). -/
theorem sequenceLeavesLastWrittenValues : Obligations.SequenceLeavesLastWrittenValues := by
  intro is
  induction is with
  | nil =>
    intro s t h p
    cases h
    rfl
  | cons i is ih =>
    intro s t h p
    obtain ⟨u, hexec, hrest⟩ := performAll_cons_eq_next.mp h
    rw [lastWritten_cons_of_next hexec, ← requestWritesExactlyItsFootprint i s u hexec p]
    exact ih u t hrest p

/-! ## The stream of requests -/

/-- Settles O9: the port hands the step the request at the head of the input. -/
theorem stepRunsTheDecodedRequest : Obligations.StepRunsTheDecodedRequest := by
  intro s q rest i hin hdec
  simp only [step, fetch_request hin, hdec]

/-- The `idx` of HI and of LO is one that the formats KR and KW admit (R75). -/
theorem mdIdx_upper (k : MdSel) : (mdIdx k).extractLsb' 1 4 = 0#4 := by
  cases k <;> rfl

/-- Every request is decoded from its encoding (R74 to R76). -/
@[simp] theorem decode_encode (i : Instr) : decode (encode i) = some i := by
  cases i <;> simp [encode, decode, single, selected, mdIdx_upper]

/-- A request does not look at the stream behind it. -/
theorem exec_withInput {i : Instr} {s t : State} (h : exec i s = .next t) (inputs : List PortInput) :
    exec i { s with input := inputs } = .next { t with input := inputs } := by
  obtain ⟨t', h', hrsp⟩ := (exec_answersAlike (u := { s with input := inputs }) (agreeOn_refl _ s.regs)).next h
  have hregs : t'.regs = t.regs := Regs.ext_part fun p => by
    rw [requestWritesExactlyItsFootprint i _ t' h' p, requestWritesExactlyItsFootprint i s t h p]
  obtain ⟨_, hidles, _⟩ := exec_next_port h
  obtain ⟨hinput', hidles', _⟩ := exec_next_port h'
  rw [h', State.ext_fields (s := { t with input := inputs }) hregs hinput' (hidles'.trans hidles.symm) hrsp]

theorem performAll_cons_withInput {i : Instr} {is : List Instr} {s t : State} (inputs rest : List PortInput) :
    performAll (i :: is) { s with input := rest } = .next t ↔
      ∃ u, exec i { s with input := inputs } = .next u ∧ performAll is { u with input := rest } = .next t := by
  rw [performAll_cons_eq_next]
  constructor
  · rintro ⟨u, hexec, hrest⟩
    obtain rfl : u.input = rest := (exec_next_port hexec).1
    exact ⟨_, exec_withInput hexec inputs, hrest⟩
  · rintro ⟨u, hexec, hrest⟩
    exact ⟨_, exec_withInput hexec rest, hrest⟩

/-- Settles O49, by induction on the requests: each step performs the one at the head, on a state that differs from
that of the sequence in the stream alone. -/
theorem streamPerformsItsRequestsInOrder : Obligations.StreamPerformsItsRequestsInOrder := by
  intro is
  induction is with
  | nil =>
    intro s t rest hin
    have hs : { s with input := rest } = s := State.ext_fields rfl hin.symm rfl rfl
    rw [hs]
    exact Iff.of_eq (Host.Outcome.next.injEq s t)
  | cons i is ih =>
    intro s t rest hin
    have hstep : step s = _ := stepRunsTheDecodedRequest s _ _ i hin (decode_encode i)
    rw [performAll_cons_withInput _ rest, List.length_cons, RunsTo, hstep]
    refine exists_congr fun u => and_congr_right fun hexec => ?_
    exact ih u t rest (exec_next_port hexec).1

/-! ## `RESET_POLICY = UNKNOWN` -/

theorem mem_record {known ps : List Part} {p : Part} : p ∈ record known ps ↔ p ∈ known ∨ p ∈ ps := by
  induction ps generalizing known with
  | nil => simp [record]
  | cons q ps ih =>
    rw [record, ih, List.mem_cons, ← or_assoc]
    refine or_congr_left ?_
    split
    next hq => exact ⟨.inl, fun h => h.elim id (· ▸ List.contains_iff_mem.mp hq)⟩
    next => simp

theorem firstUnwritten_eq_none {known ps : List Part} :
    firstUnwritten known ps = none ↔ ∀ p ∈ ps, p ∈ known := by
  simp [firstUnwritten]

/-- Which read is blocked first depends on the written parts only: the reads depend on FR, whose own part comes
first. -/
theorem firstUnwritten_readsOf_congr {cfg : Config} {known : List Part} {r' r : Regs} (h : AgreeOn known r' r)
    (i : Instr) : firstUnwritten known (readsOf cfg r' i) = firstUnwritten known (readsOf cfg r i) := by
  by_cases hfr : frPart cfg ∈ known
  · rw [readsOf_congr (Regs.fr_of_part (h _ hfr))]
  · cases i with
    | fprRead64 i => simp [readsOf, firstUnwritten, hfr]
    | _ => rfl

theorem blockedRead_unknown {cfg : Config} (hpolicy : cfg.resetPolicy = .unknown) (v : VState) (r : Regs)
    (i : Instr) : blockedRead cfg v r i = firstUnwritten v.written (readsOf cfg r i) := by
  simp only [blockedRead, hpolicy]

theorem vexec_of_blocked {cfg : Config} {v : VState} {i : Instr} {p : Part}
    (h : blockedRead cfg v v.base.regs i = some p) : vexec cfg i v = .fault (.unwrittenRead p) := by
  simp only [vexec, h]

theorem vexec_of_next {cfg : Config} {v : VState} {i : Instr} {t : State}
    (h : blockedRead cfg v v.base.regs i = none) (hexec : execWith cfg i v.base = .next t) :
    vexec cfg i v = .next ⟨t, record v.written ((writesOf cfg v.base.regs i).map Prod.fst)⟩ := by
  simp only [vexec, h, hexec]

theorem vexec_of_fault {cfg : Config} {v : VState} {i : Instr} {f : Fault}
    (h : blockedRead cfg v v.base.regs i = none) (hexec : execWith cfg i v.base = .fault f) :
    vexec cfg i v = .fault (.violation f) := by
  simp only [vexec, h, hexec]

theorem execWith_next_port {cfg : Config} {i : Instr} {s t : State} (h : execWith cfg i s = .next t) :
    t.input = s.input ∧ t.idles = s.idles :=
  (execWith_answersAlike (agreeOn_refl _ s.regs)).next_port h

/-- Writing the same parts with the same values extends the agreement to them. -/
theorem agreeOn_record_of_written {known : List Part} {r r' q q' : Regs} (h : AgreeOn known r' r)
    {ws : List (Part × Half)} (hq : ∀ p, q.part p = written ws p (r.part p))
    (hq' : ∀ p, q'.part p = written ws p (r'.part p)) : AgreeOn (record known (ws.map Prod.fst)) q' q := by
  intro p hp
  rw [hq, hq']
  rcases mem_record.mp hp with hknown | hnew
  · rw [h p hknown]
  · exact written_of_mem hnew _ _

/-- Two machines that can differ in unwritten parts, and in the response of the step before, only. -/
structure SameKnown (u v : VState) : Prop where
  written : u.written = v.written
  input   : u.base.input = v.base.input
  idles   : u.base.idles = v.base.idles
  regs    : AgreeOn v.written u.base.regs v.base.regs

/-- The outcome of a step of the variant. -/
abbrev VResult := Host.Outcome VState VFault Refusal

/-- Two steps of the variant end alike: in machines that agree on what is written and show the same response, or in the
same fault. -/
inductive VEndsAlike : VResult → VResult → Prop where
  | next {v' u' : VState} (hknown : SameKnown u' v') (hrsp : u'.base.rsp = v'.base.rsp) :
      VEndsAlike (.next v') (.next u')
  | fault (f : VFault) : VEndsAlike (.fault f) (.fault f)

theorem VEndsAlike.of_next {a b : VResult} {v' : VState} (h : VEndsAlike a b) (ha : a = .next v') :
    ∃ u', b = .next u' ∧ SameKnown u' v' ∧ u'.base.rsp = v'.base.rsp := by
  cases h with
  | next hknown hrsp =>
    cases ha
    exact ⟨_, rfl, hknown, hrsp⟩
  | fault f => cases ha

theorem VEndsAlike.of_fault {a b : VResult} {f : VFault} (h : VEndsAlike a b) (ha : a = .fault f) :
    b = .fault f := by
  cases h with
  | next _ _ => cases ha
  | fault f => exact ha

theorem SameKnown.blockedRead_eq {cfg : Config} (hpolicy : cfg.resetPolicy = .unknown) {u v : VState}
    (h : SameKnown u v) (i : Instr) :
    blockedRead cfg u u.base.regs i = blockedRead cfg v v.base.regs i := by
  rw [blockedRead_unknown hpolicy, blockedRead_unknown hpolicy, h.written]
  exact firstUnwritten_readsOf_congr h.regs i

/-- A request that no read blocks reads written parts only, so it ends alike where those agree. -/
theorem SameKnown.vexec_endsAlike {cfg : Config} (hpolicy : cfg.resetPolicy = .unknown) {u v : VState}
    (h : SameKnown u v) (i : Instr) : VEndsAlike (vexec cfg i v) (vexec cfg i u) := by
  have hblocked := h.blockedRead_eq hpolicy i
  cases hb : blockedRead cfg v v.base.regs i with
  | some p =>
    rw [vexec_of_blocked hb, vexec_of_blocked (hblocked.trans hb)]
    exact .fault _
  | none =>
    have hknown := firstUnwritten_eq_none.mp ((blockedRead_unknown hpolicy v _ i).symm.trans hb)
    have hreads : AgreeOn (readsOf cfg v.base.regs i) u.base.regs v.base.regs := fun p hp => h.regs p (hknown p hp)
    have halike := execWith_answersAlike hreads
    cases hv : execWith cfg i v.base with
    | next t =>
      obtain ⟨t', hu, hrsp⟩ := halike.next hv
      rw [vexec_of_next hb hv, vexec_of_next (hblocked.trans hb) hu, writesOf_of_agreeOn hreads, h.written]
      obtain ⟨hinput, hidles⟩ := execWith_next_port hv
      obtain ⟨hinput', hidles'⟩ := execWith_next_port hu
      have hparts := execWith_part hu
      rw [writesOf_of_agreeOn hreads] at hparts
      refine .next ⟨rfl, ?_, ?_, agreeOn_record_of_written h.regs (execWith_part hv) hparts⟩ hrsp
      · exact hinput'.trans (h.input.trans hinput.symm)
      · exact hidles'.trans (h.idles.trans hidles.symm)
    | fault f =>
      rw [vexec_of_fault hb hv, vexec_of_fault (hblocked.trans hb) (halike.fault hv)]
      exact .fault _
    | refused x => exact absurd hv (halike.ne_refused x)

/-- A step on machines that agree on what is written ends alike, by the kinds of step. -/
theorem SameKnown.vstep_endsAlike {cfg : Config} (hpolicy : cfg.resetPolicy = .unknown) {u v : VState}
    (h : SameKnown u v) : VEndsAlike (vstep cfg v) (vstep cfg u) := by
  rcases step_cases v.base with ⟨hin, _⟩ | ⟨q, rest, i, hin, hdec, _⟩ | ⟨q, rest, hin, hdec, _⟩
  case inl =>
    rw [vstep_idle cfg hin, vstep_idle cfg (h.input.symm ▸ hin)]
    have hrsp : (idle { u.base with input := u.base.input.tail }).rsp =
        (idle { v.base with input := v.base.input.tail }).rsp := by
      simp only [idle, h.idles]
    exact .next ⟨h.written, congrArg List.tail h.input, congrArg (· + 1) h.idles, h.regs⟩ hrsp
  case inr.inl =>
    rw [vstep_request cfg hin hdec, vstep_request cfg (h.input.trans hin) hdec]
    have hafter : SameKnown ⟨{ u.base with input := rest }, u.written⟩
        ⟨{ v.base with input := rest }, v.written⟩ := ⟨h.written, rfl, h.idles, h.regs⟩
    exact hafter.vexec_endsAlike hpolicy i
  case inr.inr =>
    rw [vstep_reserved cfg hin hdec, vstep_reserved cfg (h.input.trans hin) hdec]
    exact .fault _

/-- Settles O52: agreement on what is written is kept by the step, and a read of anything else stops both machines. -/
theorem unknownResetHidesStoredValues : Obligations.UnknownResetHidesStoredValues := by
  intro cfg v u hpolicy hwritten hinput hidles hregs
  have hknown : SameKnown u v := ⟨hwritten, hinput, hidles, hregs⟩
  have halike : VEndsAlike (vstep cfg v) (vstep cfg u) := hknown.vstep_endsAlike hpolicy
  refine ⟨fun v' hv => ?_, fun f => halike.of_fault⟩
  obtain ⟨u', hu, hafter, hrsp⟩ := halike.of_next hv
  exact ⟨u', hu, hafter.written, hafter.input, hafter.idles, hrsp, hafter.regs⟩

end Sys2Proof.Machine
end

section
/-! SUPPORT. The decoder, said once: the fields of a command word, the reserved words, the command word of what is
decoded, and where the data bits go. -/

namespace Sys2Proof

/-! ## Fields of the command word -/

theorem toNat_opOf (c : Cmd) : (opOf c).toNat = c.toNat / 32 := by
  simp only [opOf, BitVec.extractLsb'_toNat, Nat.shiftRight_eq_div_pow]
  omega

theorem toNat_idxOf (c : Cmd) : (idxOf c).toNat = c.toNat % 32 := by
  simp [idxOf]

theorem getLsbD_opOf (c : Cmd) {k : Nat} (hk : k < 5) : (opOf c).getLsbD k = c.getLsbD (5 + k) := by
  simp [opOf, hk]

theorem cmd_eq_iff {c d : Cmd} : c = d ↔ opOf c = opOf d ∧ idxOf c = idxOf d := by
  refine ⟨fun h => by simp [h], fun ⟨hop, hidx⟩ => ?_⟩
  rw [← cmdWord_op_idx c, hop, hidx, cmdWord_op_idx]

theorem opOf_and (c m : Cmd) : opOf (c &&& m) = opOf c &&& opOf m := BitVec.extractLsb'_and

theorem idxOf_and (c m : Cmd) : idxOf (c &&& m) = idxOf c &&& idxOf m := BitVec.extractLsb'_and

/-! ## Reserved words -/

/-- The `op` values that stand for no request (R77). -/
def reservedOps : List (BitVec 5) :=
  [0x08#5, 0x0A#5, 0x10#5, 0x12#5, 0x15#5, 0x17#5, 0x18#5, 0x19#5, 0x1A#5, 0x1B#5, 0x1C#5, 0x1D#5, 0x1E#5, 0x1F#5]

/-- The `op` values of the formats IR and IW (R75). -/
def anyIdxOps : List (BitVec 5) :=
  [0x00#5, 0x01#5, 0x02#5, 0x03#5, 0x04#5, 0x05#5, 0x06#5, 0x07#5, 0x09#5, 0x0B#5]

/-- The `op` values of the formats SR and SW (R75). -/
def singleCellOps : List (BitVec 5) := [0x0C#5, 0x0D#5, 0x0E#5, 0x0F#5, 0x14#5, 0x16#5]

/-- The `op` values of the formats KR and KW (R75). -/
def selectOps : List (BitVec 5) := [0x11#5, 0x13#5]

/-- R77 on the fields of the word; `wellFormedCmd` says it on the word's number. -/
def ReservedWord (c : Cmd) : Prop :=
  opOf c ∈ reservedOps ∨ (opOf c ∈ singleCellOps ∧ idxOf c ≠ 0) ∨
    (opOf c ∈ selectOps ∧ (idxOf c).extractLsb' 1 4 ≠ 0)

theorem op_mem_lists (o : BitVec 5) :
    o ∈ reservedOps ∨ o ∈ anyIdxOps ∨ o ∈ singleCellOps ∨ o ∈ selectOps := by
  revert o; decide

theorem definedOp_eq_false {c : Cmd} : definedOp c = false ↔ opOf c ∈ reservedOps := by
  rw [definedOp, ← toNat_opOf]
  generalize opOf c = o
  revert o; decide

theorem singleOps_contains (o : BitVec 5) : singleOps.contains o.toNat = true ↔ o ∈ singleCellOps := by
  revert o; decide

theorem selectedOps_contains (o : BitVec 5) : selectedOps.contains o.toNat = true ↔ o ∈ selectOps := by
  revert o; decide

theorem idx_toNat_div_two (i : Idx) : i.toNat / 2 = 0 ↔ i.extractLsb' 1 4 = 0 := by
  revert i; decide

theorem singleIdxOk_eq_false {c : Cmd} : singleIdxOk c = false ↔ opOf c ∈ singleCellOps ∧ idxOf c ≠ 0 := by
  rw [singleIdxOk, ← toNat_opOf, ← toNat_idxOf, ← singleOps_contains]
  simp [BitVec.toNat_eq]

theorem selectedIdxOk_eq_false {c : Cmd} :
    selectedIdxOk c = false ↔ opOf c ∈ selectOps ∧ (idxOf c).extractLsb' 1 4 ≠ 0 := by
  rw [selectedIdxOk, ← toNat_opOf, ← toNat_idxOf, ← selectedOps_contains, ne_eq, ← idx_toNat_div_two]
  simp

theorem wellFormedCmd_eq_false {c : Cmd} : wellFormedCmd c = false ↔ ReservedWord c := by
  simp only [wellFormedCmd, Bool.and_eq_false_iff, definedOp_eq_false, singleIdxOk_eq_false,
    selectedIdxOk_eq_false, ReservedWord, or_assoc]

theorem single_eq_none {i : Idx} {r : Instr} : single i r = none ↔ i ≠ 0 := by
  simp [single]

theorem selected_eq_none {i : Idx} {f : MdSel → Instr} : selected i f = none ↔ i.extractLsb' 1 4 ≠ 0 := by
  simp [selected]

/-- The decoder refuses the reserved words and no other, by its arms; the last arm takes the `op` values that are in
no list of defined ones. -/
theorem decode_eq_none {q : Request} : decode q = none ↔ ReservedWord q.cmd := by
  unfold decode ReservedWord
  split
  case h_19 =>
    have hop := op_mem_lists (opOf q.cmd)
    simp_all [anyIdxOps, singleCellOps, selectOps]
  all_goals
    rename_i hop
    simp [hop, reservedOps, singleCellOps, selectOps, single_eq_none, selected_eq_none]

theorem isSome_decode (q : Request) : (decode q).isSome = wellFormedCmd q.cmd := by
  rw [Bool.eq_iff_iff, ← not_iff_not, Bool.not_eq_true, Bool.not_eq_true, Option.isSome_eq_false_iff,
    Option.isNone_iff_eq_none, decode_eq_none, wellFormedCmd_eq_false]

/-! ## The command word of a decoded request -/

theorem cmd_encode_of_single {o : BitVec 5} {i : Idx} {r x : Instr} (h : single i r = some x)
    (hr : (encode r).cmd = cmdWord o 0) : (encode x).cmd = cmdWord o i := by
  obtain ⟨rfl, rfl⟩ := single_eq_some.mp h
  exact hr

theorem cmd_encode_of_selected {o : BitVec 5} {i : Idx} {f : MdSel → Instr} {x : Instr}
    (h : selected i f = some x) (hf : ∀ k, (encode (f k)).cmd = cmdWord o (mdIdx k)) :
    (encode x).cmd = cmdWord o i := by
  obtain ⟨hi, rfl⟩ := selected_eq_some.mp h
  rw [hf, mdIdx_mdSelOf i hi]

/-- By the decoder's arms in their order: arms 11 to 14, 17 and 18 are those of the single-cell formats, 15 and 16
those of the selected formats, the last one refuses, and the rest take any index (R74, R75). -/
theorem cmd_encode_of_decode {q : Request} {i : Instr} (h : decode q = some i) : (encode i).cmd = q.cmd := by
  rw [← cmdWord_op_idx q.cmd]
  unfold decode at h
  split at h
  case h_19 => cases h
  all_goals
    rename_i hop
    rw [hop]
  case h_11 | h_12 | h_13 | h_14 | h_17 | h_18 => exact cmd_encode_of_single h rfl
  case h_15 | h_16 => exact cmd_encode_of_selected h fun _ => rfl
  all_goals
    cases h
    rfl

open Laws.EncodedCommand in
theorem encodedCommand : ∀ i : Instr, Statement i
  | .gprRead32 i => gprRead32 i
  | .gprRead64 i => gprRead64 i
  | .gprWrite32 i v => gprWrite32 i v
  | .gprWrite64 i v => gprWrite64 i v
  | .fprRead32 i => fprRead32 i
  | .fprRead64 i => fprRead64 i
  | .fprWrite32 i v => fprWrite32 i v
  | .fprWrite64 i v => fprWrite64 i v
  | .cp0Read i => cp0Read i
  | .cp0Write i v => cp0Write i v
  | .pcRead32 => pcRead32
  | .pcRead64 => pcRead64
  | .pcWrite32 v => pcWrite32 v
  | .pcWrite64 v => pcWrite64 v
  | .mdRead k => mdRead k
  | .mdWrite k v => mdWrite k v
  | .llRead => llRead
  | .llWrite b => llWrite b

/-- What `op` says of the request that its word decodes to (R73). -/
theorem op_of_decode {q : Request} {i : Instr} (h : decode q = some i) :
    targetOf (opOf q.cmd) = some (targetOfInstr i) ∧ opIsWrite (opOf q.cmd) = isWrite i ∧
      opIsWide (opOf q.cmd) = isWide i := by
  rw [← cmd_encode_of_decode h]
  exact (encodedCommand i).2

/-! ## The data of a decoded request -/

/-- The request with its write data taken from the data word `w`, as the request's kind takes it (R76); a read has
none. -/
def Instr.withData (w : Word) : Instr → Instr
  | .gprWrite32 i _ => .gprWrite32 i (wdata32 w)
  | .gprWrite64 i _ => .gprWrite64 i w
  | .fprWrite32 i _ => .fprWrite32 i (wdata32 w)
  | .fprWrite64 i _ => .fprWrite64 i w
  | .cp0Write i _ => .cp0Write i w
  | .pcWrite32 _ => .pcWrite32 (wdata32 w)
  | .pcWrite64 _ => .pcWrite64 w
  | .mdWrite k _ => .mdWrite k w
  | .llWrite _ => .llWrite (wdataBit w)
  | i => i

theorem map_single (f : Instr → Instr) (i : Idx) (r : Instr) : (single i r).map f = single i (f r) := by
  unfold single; split <;> rfl

theorem map_selected (f : Instr → Instr) (i : Idx) (g : MdSel → Instr) :
    (selected i g).map f = selected i (f ∘ g) := by
  unfold selected; split <;> rfl

/-- The data word decides nothing but the data of the decoded request. -/
theorem decode_eq_map_withData (c : Cmd) (w w' : Word) :
    decode ⟨c, w⟩ = (decode ⟨c, w'⟩).map (Instr.withData w) := by
  unfold decode
  dsimp only
  split <;> simp only [map_single, map_selected, Option.map_some, Option.map_none] <;> rfl

/-- The command word of `i` with any data decodes to `i` with that data. -/
theorem decode_cmd_encode (i : Instr) (w : Word) : decode ⟨(encode i).cmd, w⟩ = some (i.withData w) := by
  rw [decode_eq_map_withData _ w (encode i).wdata, Machine.decode_encode, Option.map_some]

theorem decode_congr_data {c : Cmd} {w w' : Word}
    (h : ∀ i, decode ⟨c, w'⟩ = some i → i.withData w = i.withData w') : decode ⟨c, w⟩ = decode ⟨c, w'⟩ :=
  calc decode ⟨c, w⟩ = (decode ⟨c, w'⟩).map (Instr.withData w) := decode_eq_map_withData c w w'
    _ = (decode ⟨c, w'⟩).map (Instr.withData w') := Option.map_congr h
    _ = decode ⟨c, w'⟩ := (decode_eq_map_withData c w' w').symm

theorem Instr.withData_of_read {i : Instr} (h : isWrite i = false) (w : Word) : i.withData w = i := by
  cases i with
  | gprRead32 | gprRead64 | fprRead32 | fprRead64 | cp0Read | pcRead32 | pcRead64 | mdRead | llRead => rfl
  | _ => cases h

theorem wdataBit_congr {w w' : Word} (h : wdata32 w = wdata32 w') : wdataBit w = wdataBit w' := by
  simpa [wdata32, wdataBit] using congrArg (·.getLsbD 0) h

theorem Instr.withData_of_narrow {i : Instr} (h : isWide i = false) {w w' : Word} (hw : wdata32 w = wdata32 w') :
    i.withData w = i.withData w' := by
  cases i with
  | gprRead32 | fprRead32 | pcRead32 | llRead => rfl
  | gprWrite32 | fprWrite32 | pcWrite32 => simp only [Instr.withData, hw]
  | llWrite => simp only [Instr.withData, wdataBit_congr hw]
  | _ => cases h

theorem Instr.withData_of_ll {i : Instr} (h : targetOfInstr i = .ll) {w w' : Word} (hw : wdataBit w = wdataBit w') :
    i.withData w = i.withData w' := by
  cases i with
  | llRead => rfl
  | llWrite => simp only [Instr.withData, hw]
  | _ => cases h

/-! ## The rows of the opcode table -/

theorem rowMatches_eq (c : Cmd) (r : OpRow) : rowMatches c r =
    (opOf c &&& opOf r.mask == opOf r.value && idxOf c &&& idxOf r.mask == idxOf r.value) := by
  rw [rowMatches, Bool.eq_iff_iff, Bool.and_eq_true, beq_iff_eq, beq_iff_eq, beq_iff_eq, cmd_eq_iff, opOf_and,
    idxOf_and]

/-- Every row fixes all of `op`, to a defined value, and the bits of `idx` that its format fixes to 0 (R75). -/
theorem opcodeTable_fields : ∀ r ∈ opcodeTable, opOf r.mask = BitVec.allOnes 5 ∧ idxOf r.value = 0 ∧
    opOf r.value ∉ reservedOps ∧ (opOf r.value ∈ singleCellOps → idxOf r.mask = BitVec.allOnes 5) ∧
    (opOf r.value ∈ selectOps → idxOf r.mask = 0b11110) := by
  decide

theorem rowMatches_of_mem {r : OpRow} (hr : r ∈ opcodeTable) (c : Cmd) :
    rowMatches c r = (opOf c == opOf r.value && idxOf c &&& idxOf r.mask == 0) := by
  obtain ⟨hop, hidx, _⟩ := opcodeTable_fields r hr
  rw [rowMatches_eq, hop, hidx, BitVec.and_allOnes]

/-- The rows of the opcode table for an `op`. -/
def rowsOfOp (o : BitVec 5) : List OpRow := opcodeTable.filter (fun r => o == opOf r.value)

theorem filter_rowMatches (c : Cmd) : opcodeTable.filter (rowMatches c) =
    (rowsOfOp (opOf c)).filter (fun r => idxOf c &&& idxOf r.mask == 0) := by
  rw [rowsOfOp, List.filter_filter]
  exact List.filter_congr fun r hr => (rowMatches_of_mem hr c).trans (Bool.and_comm _ _)

theorem mdIdx_and_upper (k : MdSel) : mdIdx k &&& 0b11110 = 0 := by
  cases k <;> rfl

/-- The table has one row for the `op` of a request: its own, and the request's `idx` is one that the row takes. -/
theorem rowsOfOp_encode (i : Instr) : ∃ r, rowsOfOp (opOf (encode i).cmd) = [r] ∧
    (r.name, r.format) = (mnemonic i, formatOfInstr i) ∧ idxOf (encode i).cmd &&& idxOf r.mask = 0 := by
  cases i with
  | gprRead32 | gprRead64 | gprWrite32 | gprWrite64 | fprRead32 | fprRead64 | fprWrite32 | fprWrite64 | cp0Read
  | cp0Write =>
    rw [encode, opOf_cmdWord, idxOf_cmdWord]
    exact ⟨_, rfl, rfl, BitVec.and_zero⟩
  | pcRead32 | pcRead64 | pcWrite32 | pcWrite64 | llRead | llWrite =>
    rw [encode, opOf_cmdWord, idxOf_cmdWord]
    exact ⟨_, rfl, rfl, BitVec.zero_and⟩
  | mdRead k | mdWrite k =>
    rw [encode, opOf_cmdWord, idxOf_cmdWord]
    exact ⟨_, rfl, rfl, mdIdx_and_upper k⟩

theorem idx_upper_of_and {i : Idx} (h : i &&& 0b11110 = 0) : i.extractLsb' 1 4 = 0 := by
  revert i; decide

theorem not_reservedWord_of_rowMatches {c : Cmd} {r : OpRow} (hr : r ∈ opcodeTable)
    (hmatch : rowMatches c r = true) : ¬ ReservedWord c := by
  obtain ⟨_, _, hdef, hsingle, hselect⟩ := opcodeTable_fields r hr
  rw [rowMatches_of_mem hr, Bool.and_eq_true, beq_iff_eq, beq_iff_eq] at hmatch
  obtain ⟨hop, hidx⟩ := hmatch
  rw [← hop] at hdef hsingle hselect
  rintro (hres | ⟨hmem, hne⟩ | ⟨hmem, hne⟩)
  · exact hdef hres
  · rw [hsingle hmem, BitVec.and_allOnes] at hidx
    exact hne hidx
  · rw [hselect hmem] at hidx
    exact hne (idx_upper_of_and hidx)

end Sys2Proof
end

section
/-! SUPPORT. Proofs of the encoding statements. -/

namespace Sys2Proof.Machine

/-- Settles O1: it is the round trip of the decoder, one case per request. -/
theorem encodeThenDecode : Obligations.EncodeThenDecode := decode_encode

/-- Settles O2, by the arms of the decoder. -/
theorem decodedCommandIsEncoded : Obligations.DecodedCommandIsEncoded :=
  fun _ _ => cmd_encode_of_decode

/-! ## The sub-fields of `op` -/

theorem isWide_of_target_cp0_or_md {i : Instr} (h : targetOfInstr i = .cp0 ∨ targetOfInstr i = .md) :
    isWide i = true := by
  cases i <;> simp [targetOfInstr, isWide] at h ⊢

theorem isWide_of_target_ll {i : Instr} (h : targetOfInstr i = .ll) : isWide i = false := by
  cases i <;> simp [targetOfInstr, isWide] at h ⊢

theorem targetOf_eq_none {o : BitVec 5} (h : o.extractLsb' 3 2 = 0b11#2) : targetOf o = none := by
  revert o; decide

theorem targetOf_eq (o : BitVec 5) : targetOf o =
    [some .gpr, some .fpr, some .cp0, some .pc, some .md, some .ll, none, none][o.toNat / 4]! := by
  revert o; decide

theorem extractLsb'_opOf_top (c : Cmd) : (opOf c).extractLsb' 3 2 = c.extractLsb' 8 2 := by
  ext k hk
  have hlt : 3 + k < 5 := by omega
  simp [opOf, hlt, ← Nat.add_assoc]

/-- Settles O3: the word that decodes is the one that encodes its request, where `op` says target, direction and
width. -/
theorem opSubfieldsGiveTargetDirectionWidth : Obligations.OpSubfieldsGiveTargetDirectionWidth := by
  refine ⟨fun q i h => ?_, fun q htop => ?_, fun c => ?_⟩
  · obtain ⟨htarget, hwrite, hwide⟩ := op_of_decode h
    exact ⟨htarget, hwrite, hwide, isWide_of_target_cp0_or_md, isWide_of_target_ll⟩
  · refine Option.eq_none_iff_forall_ne_some.mpr fun i h => ?_
    obtain ⟨htarget, _, _⟩ := op_of_decode h
    rw [targetOf_eq_none ((extractLsb'_opOf_top q.cmd).trans htop)] at htarget
    cases htarget
  · rw [targetOf_eq, toNat_opOf, Nat.div_div_eq_div_mul]

/-! ## The opcode table -/

/-- Settles O4: a word that a row takes is not reserved, and a word that decodes is its request's own, which its one
row takes. -/
theorem opcodeTableAgreesWithDecoder : Obligations.OpcodeTableAgreesWithDecoder := by
  intro q
  cases hdec : decode q with
  | none =>
    have hrows : opcodeTable.filter (rowMatches q.cmd) = [] :=
      List.filter_eq_nil_iff.mpr fun r hr hmatch =>
        not_reservedWord_of_rowMatches hr hmatch (decode_eq_none.mp hdec)
    rw [hrows]
    rfl
  | some i =>
    obtain ⟨r, hrow, hname, hidx⟩ := rowsOfOp_encode i
    rw [filter_rowMatches, ← cmd_encode_of_decode hdec, hrow]
    simpa [hidx] using hname

/-! ## Reserved encodings -/

theorem step_reserved {s : State} {q : Request} {rest : List PortInput} (h : s.input = ⟨true, q⟩ :: rest)
    (hdec : decode q = none) : step s = .fault .reservedEncoding := by
  simp only [step, fetch_request h, hdec, raise]

theorem portStep_of_fault {s : State} {f : Fault} (h : step s = .fault f) :
    portStep s = violated (fetch s).2 f := by
  simp only [portStep, h]

/-- Settles O5: the decoder refuses exactly the words of R77, and a refused request ends the step in its fault. -/
theorem reservedEncodingsFault : Obligations.ReservedEncodingsFault := by
  refine ⟨fun _ => wellFormedCmd_eq_false, isSome_decode, fun s q rest hin hwf => ?_⟩
  have hstep : step s = .fault .reservedEncoding :=
    step_reserved hin (decode_eq_none.mpr (wellFormedCmd_eq_false.mp hwf))
  rw [portStep_of_fault hstep, fetch_request hin]
  exact ⟨hstep, rfl, rfl, rfl⟩

/-! ## Ignored data bits -/

/-- Settles O8: only the data of the decoded request depends on the data word, and a read has none, a 32-bit write
takes bits 31:0, LL_WRITE takes bit 0. -/
theorem ignoredDataBitsDoNotDecode : Obligations.IgnoredDataBitsDoNotDecode := by
  intro c w w'
  refine ⟨fun hread => decode_congr_data fun i hdec => ?_, fun hnarrow hw => decode_congr_data fun i hdec => ?_,
    fun hop hw => decode_congr_data fun i hdec => ?_⟩ <;>
  obtain ⟨htarget, hwrite, hwide⟩ := op_of_decode hdec
  · have hi : isWrite i = false := by rw [← hwrite, opIsWrite, getLsbD_opOf c (by decide), hread]
    rw [Instr.withData_of_read hi, Instr.withData_of_read hi]
  · have hi : isWide i = false := by rw [← hwide, opIsWide, getLsbD_opOf c (by decide), hnarrow]
    exact Instr.withData_of_narrow hi hw
  · have hi : targetOfInstr i = .ll := by
      rw [hop] at htarget
      exact (Option.some.inj htarget).symm
    exact Instr.withData_of_ll hi hw

/-! ## Counting the command words -/

/-- `wellFormedCmd` on the numbers of `op` and `idx`. -/
def fieldsWellFormed (o i : Nat) : Bool :=
  (indexedOps ++ singleOps ++ selectedOps).contains o && (!singleOps.contains o || i == 0) &&
    (!selectedOps.contains o || i / 2 == 0)

theorem wellFormedCmd_ofNat {o i : Nat} (ho : o < 32) (hi : i < 32) :
    wellFormedCmd (BitVec.ofNat 10 (32 * o + i)) = fieldsWellFormed o i := by
  have hnat : (BitVec.ofNat 10 (32 * o + i)).toNat = 32 * o + i := by
    rw [BitVec.toNat_ofNat]
    exact Nat.mod_eq_of_lt (by omega)
  have hop : (32 * o + i) / 32 = o := by omega
  have hidx : (32 * o + i) % 32 = i := by omega
  simp only [wellFormedCmd, definedOp, singleIdxOk, selectedIdxOk, fieldsWellFormed, hnat, hop, hidx]

/-- Counting below `m * n` is counting in `n` blocks of `m`. -/
theorem length_filter_range_mul (p : Nat → Bool) (m n : Nat) :
    ((List.range (m * n)).filter p).length =
      ((List.range n).map fun k => ((List.range m).filter fun i => p (m * k + i)).length).sum := by
  induction n with
  | zero => rfl
  | succ n ih =>
    rw [Nat.mul_succ, List.range_add, List.filter_append, List.length_append, ih, List.range_succ, List.filter_map,
      List.length_map]
    simp [Function.comp_def]

/-- One block of 32 words for each `op`. -/
theorem length_filter_wellFormedCmd :
    ((List.range 1024).filter fun n => wellFormedCmd (BitVec.ofNat 10 n)).length = 330 := by
  have hblock : ∀ o ∈ List.range 32,
      ((List.range 32).filter fun i => wellFormedCmd (BitVec.ofNat 10 (32 * o + i))).length =
        ((List.range 32).filter (fieldsWellFormed o)).length := fun o ho =>
    congrArg List.length (List.filter_congr fun i hi =>
      wellFormedCmd_ofNat (List.mem_range.mp ho) (List.mem_range.mp hi))
  rw [show 1024 = 32 * 32 from rfl, length_filter_range_mul, List.map_congr_left hblock]
  decide

theorem length_filter_not {α : Type} {p : α → Bool} {l : List α} {m n : Nat} (hl : l.length = m + n)
    (hp : (l.filter p).length = m) : (l.filter fun x => !p x).length = n := by
  have hall : l.length = (l.filter p).length + (l.filter fun x => !p x).length :=
    List.length_eq_length_filter_add p
  omega

/-- Settles O6: the words that decode are the well-formed ones, counted `op` by `op`. -/
theorem definedWordCounts : Obligations.DefinedWordCounts := by
  unfold Obligations.DefinedWordCounts
  simp only [← Option.not_isSome, isSome_decode]
  exact ⟨length_filter_wellFormedCmd, length_filter_not List.length_range length_filter_wellFormedCmd⟩

/-! ## Worked encodings -/

/-- Settles O7: each command word is that of its request, with the data of the row or, for a read, with any; the texts
are evaluated. -/
theorem workedEncodings : Obligations.WorkedEncodings := by
  refine ⟨⟨decode_cmd_encode (.gprWrite32 2 0) _, ?_⟩, decode_cmd_encode (.gprRead32 2), ?_,
    ⟨decode_cmd_encode (.gprWrite32 0 0) _, ?_⟩, ⟨decode_cmd_encode (.cp0Write 12 0) _, ?_⟩,
    ⟨decode_cmd_encode (.fprWrite64 4 0) _, ?_⟩, decode_cmd_encode (.fprRead64 4), ?_,
    decode_cmd_encode (.fprRead32 4), ?_, decode_cmd_encode (.mdRead .lo), ?_,
    decode_cmd_encode (.llWrite false) _, ?_⟩ <;>
  decide

/-! ## Idle steps -/

theorem step_idle {s : State} (h : s.input = [] ∨ ∃ q rest, s.input = ⟨false, q⟩ :: rest) :
    step s = .next (idle { s with input := s.input.tail }) := by
  simp only [step, fetch_idle h]

/-- Settles O10: both kinds of idle step end in the idle state past the step's input. -/
theorem idleStepChangesNoStorage : Obligations.IdleStepChangesNoStorage := by
  intro s
  refine ⟨fun hin => ⟨_, step_idle (.inl hin), rfl, congrArg List.tail hin⟩, fun q rest hin => ?_⟩
  have hstep : step s = .next (idle { s with input := s.input.tail }) := step_idle (.inr ⟨q, rest, hin⟩)
  refine ⟨⟨_, hstep, rfl, congrArg List.tail hin⟩, fun q' => ?_⟩
  rw [hstep, hin, step_idle (.inr ⟨q', rest, rfl⟩)]
  rfl

end Sys2Proof.Machine
end

section
/-! SUPPORT. Proofs of the GPR access statements: reads and writes of the GPR bank (R101 to R107), the requests that
violate the contract (R201), and the reads that `RESET_POLICY = UNKNOWN` stops (R232). -/

namespace Sys2Proof.Machine

/-! ## The command words of the GPR requests -/

/-- A command word as a number (R74). -/
theorem cmdWord_eq_add (o : BitVec 5) (i : Idx) : cmdWord o i = o.setWidth 10 * 32 + i.setWidth 10 := by
  revert o i; decide

theorem decode_of_cmd_eq (i : Instr) {c : Cmd} (h : (encode i).cmd = c) (w : Word) :
    decode ⟨c, w⟩ = some (i.withData w) :=
  h ▸ decode_cmd_encode i w

/-! ## The GPR requests -/

/-- Where GPR `i` holds `v`, GPR_READ32 answers its low half (R101). -/
theorem exec_gprRead32_of_readGpr {i : Idx} {t : State} {v : Word} (h : t.regs.readGpr i = v) :
    exec (.gprRead32 i) t = .next { t with rsp := ⟨zext64 (low32 v), .ok⟩ } :=
  congrArg (fun w => answer t (zext64 (low32 w))) h

/-- Where GPR `i` holds `v`, GPR_READ64 answers `v` (R102). -/
theorem exec_gprRead64_of_readGpr {i : Idx} {t : State} {v : Word} (h : t.regs.readGpr i = v) :
    exec (.gprRead64 i) t = .next { t with rsp := ⟨v, .ok⟩ } :=
  congrArg (answer t) h

/-- GPR_WRITE32 is GPR_WRITE64 of the cell with its low half replaced (R104). -/
theorem exec_gprWrite32 (i : Idx) (v : Half) (s : State) :
    exec (.gprWrite32 i v) s = exec (.gprWrite64 i (setLow32 (s.regs.readGpr i) v)) s := rfl

/-- A GPR write at index 0 changes nothing but the response (R103). -/
theorem exec_gprWrite64_zero (v : Word) (s : State) :
    exec (.gprWrite64 0 v) s = .next { s with rsp := ⟨0, .ok⟩ } :=
  congrArg (commit s) (Regs.writeGpr_zero s.regs v)

theorem exec_gprWrite32_zero (v : Half) (s : State) :
    exec (.gprWrite32 0 v) s = .next { s with rsp := ⟨0, .ok⟩ } :=
  (exec_gprWrite32 0 v s).trans (exec_gprWrite64_zero _ s)

theorem exec_gprWrite64_of_ne {i : Idx} (hi : i ≠ 0) (v : Word) (s : State) :
    exec (.gprWrite64 i v) s =
      .next { s with regs := { s.regs with gpr := setCell s.regs.gpr i v }, rsp := ⟨0, .ok⟩ } :=
  congrArg (commit s) (Regs.writeGpr_of_ne hi s.regs v)

/-- After GPR_WRITE64 to a nonzero index the cell holds the value (R105). -/
theorem exec_gprWrite64_holds {i : Idx} (hi : i ≠ 0) (v : Word) (s : State) :
    ∃ t, exec (.gprWrite64 i v) s = .next t ∧ t.regs.readGpr i = v :=
  ⟨_, exec_gprWrite64_of_ne hi v s, cellAt_setCell_self _ _ _⟩

/-- After GPR_WRITE32 to a nonzero index the cell holds the value below its old upper half (R104). -/
theorem exec_gprWrite32_holds {i : Idx} (hi : i ≠ 0) (v : Half) (s : State) :
    ∃ t, exec (.gprWrite32 i v) s = .next t ∧ t.regs.readGpr i = setLow32 (s.regs.readGpr i) v := by
  rw [exec_gprWrite32]
  exact exec_gprWrite64_holds hi _ s

/-- Settles O18: the answer is the cell's low half, which is 0 where GPR 0 is (R22). -/
theorem gprRead32Result : Obligations.GprRead32Result := fun i _ =>
  ⟨decode_of_cmd_eq (.gprRead32 i) (cmdWord_eq_add 0x00 i), exec_gprRead32_of_readGpr rfl,
    fun hz => (exec_gprRead_zero hz).1⟩

/-- Settles O19: the answer is the cell, so after a GPR_WRITE32 what that left there. -/
theorem gprRead64Result : Obligations.GprRead64Result := by
  intro i s
  refine ⟨decode_of_cmd_eq (.gprRead64 i) (cmdWord_eq_add 0x01 i), exec_gprRead64_of_readGpr rfl, fun hi v => ?_⟩
  obtain ⟨t, ht, hcell⟩ := exec_gprWrite32_holds hi v s
  exact ⟨t, ht, exec_gprRead64_of_readGpr hcell⟩

/-- Settles O20, as the write of the whole cell that GPR_WRITE32 comes to. -/
theorem gprWrite32Result : Obligations.GprWrite32Result := fun i v s =>
  ⟨decode_of_cmd_eq (.gprWrite32 i v) (cmdWord_eq_add 0x02 i),
    fun hi => ⟨_, (exec_gprWrite32 i v s).trans (exec_gprWrite64_of_ne hi _ s), cellAt_setCell_self _ _ _,
      fun _ hj => cellAt_setCell_of_ne _ hj _⟩,
    exec_gprWrite32_zero v s⟩

/-- Settles O21: the new bank is the old one with the cell replaced, and a GPR_READ32 on it finds the value. -/
theorem gprWrite64Result : Obligations.GprWrite64Result := by
  intro i v s
  refine ⟨decode_of_cmd_eq (.gprWrite64 i v) (cmdWord_eq_add 0x03 i), fun hi => ?_, exec_gprWrite64_zero v s⟩
  refine ⟨_, exec_gprWrite64_of_ne hi v s, cellAt_setCell_self _ _ _, fun _ hj => cellAt_setCell_of_ne _ hj _,
    fun t ht => exec_gprRead32_of_readGpr ?_⟩
  rw [Regs.readGpr, ht, cellAt_setCell_self]

/-! ## Index 0 -/

/-- A 64-bit FPR write at an even index completes in every mode and layout, with the value's low half in the cell
(R128): no FPR is zero-suppressed (R133). -/
theorem fprStore64_even {i : Idx} (heven : i.getLsbD 0 = false) (cfg : Config) (r : Regs) (v : Word) :
    ∃ r', fprStore64 cfg r i v = .ok r' ∧ low32 (r'.readFpr i) = low32 v := by
  rcases fprStore64_cases cfg r i v with ⟨_, e⟩ | ⟨_, hodd, _⟩ | ⟨_, _, _, e⟩ | ⟨_, _, _, e⟩
  · exact ⟨_, e, by simp [Regs.readFpr_writeFpr]⟩
  · exact absurd (heven.symm.trans hodd) Bool.false_ne_true
  · exact ⟨_, e, by simp [Regs.readFpr_writeFpr32, (idx_succ_ne i).symm]⟩
  · exact ⟨_, e, by simp [Regs.readFpr_writeFpr]⟩

theorem exec_fprWrite64_of_store {i : Idx} {v : Word} {s : State} {r : Regs}
    (h : fprStore64 Config.hw s.regs i v = .ok r) : exec (.fprWrite64 i v) s = commit s r := by
  simp only [exec, execFprWrite64, fprWrite64With, h]

/-- Settles O22: of the writes, those of the GPR bank alone test the index (R103). -/
theorem registerZeroSuppression : Obligations.RegisterZeroSuppression := by
  intro s i v h
  have hgpr32 (hi : i ≠ 0) : ∃ t, exec (.gprWrite32 i h) s = .next t ∧ low32 (t.regs.readGpr i) = h := by
    obtain ⟨t, ht, hcell⟩ := exec_gprWrite32_holds hi h s
    exact ⟨t, ht, hcell ▸ low32_setLow32 _ _⟩
  have hfpr32 : low32 ((s.regs.writeFpr32 0 h).readFpr 0) = h := by simp [Regs.readFpr_writeFpr32]
  obtain ⟨r, hstore, hfpr64⟩ := fprStore64_even (i := 0) rfl Config.hw s.regs v
  have hcp0 : (s.regs.writeCp0 0 v).readCp0 0 = v := by simp [Regs.readCp0_writeCp0]
  exact ⟨exec_gprWrite32_zero h s, exec_gprWrite64_zero v s, fun hi => exec_gprWrite64_holds hi v s, hgpr32,
    exec_gprRead64_of_readGpr rfl, ⟨_, rfl, hfpr32⟩, ⟨_, exec_fprWrite64_of_store hstore, hfpr64⟩, ⟨_, rfl, hcp0⟩,
    ⟨_, rfl, rfl⟩, ⟨_, rfl, low32_setLow32 _ _⟩⟩

/-! ## Write then read -/

/-- Either GPR write, when it completes, leaves the storage that some write of cell `i` leaves. -/
theorem regs_of_gprWrite {i : Idx} {v : Word} {h : Half} {s t : State}
    (hw : exec (.gprWrite32 i h) s = .next t ∨ exec (.gprWrite64 i v) s = .next t) :
    ∃ w, t.regs = s.regs.writeGpr i w := by
  rcases hw with hw | hw <;> exact ⟨_, regs_of_commit_eq_next hw⟩

theorem Regs.readGpr_writeGpr_of_ne {i j : Idx} (h : j ≠ i) (r : Regs) (v : Word) :
    (r.writeGpr i v).readGpr j = r.readGpr j := by
  simp [Regs.readGpr_writeGpr, h]

/-- Settles O23: a read answers what the write left in its cell, and both writes change at most that cell. -/
theorem gprWriteThenReadLaws : Obligations.GprWriteThenReadLaws := by
  intro s i v h
  refine ⟨fun hi => ?_, fun hi => ?_, fun t hw => ?_, fun t hw => ?_⟩
  · obtain ⟨t, ht, hcell⟩ := exec_gprWrite32_holds hi h s
    refine ⟨t, ht, ?_⟩
    rw [exec_gprRead32_of_readGpr hcell, low32_setLow32, zext64]
  · obtain ⟨t, ht, hcell⟩ := exec_gprWrite64_holds hi v s
    exact ⟨t, ht, exec_gprRead64_of_readGpr hcell⟩
  · obtain ⟨w, hregs⟩ := regs_of_gprWrite hw
    exact hregs.trans (Regs.writeGpr_zero _ w)
  · obtain ⟨w, hregs⟩ := regs_of_gprWrite hw
    rw [hregs]
    exact ⟨fun j hj => Regs.readGpr_writeGpr_of_ne hj _ w, by simp⟩

/-! ## The requests that violate the contract -/

theorem fr_of_fprLoad64_error {cfg : Config} {r : Regs} {i : Idx} {f : Fault} (h : fprLoad64 cfg r i = .error f) :
    r.fr cfg = false := by
  rcases fprLoad64_cases cfg r i with ⟨_, e⟩ | ⟨hfr, _⟩ | ⟨hfr, _⟩ | ⟨hfr, _⟩
  · cases e.symm.trans h
  all_goals exact hfr

theorem fr_of_fprStore64_error {cfg : Config} {r : Regs} {i : Idx} {v : Word} {f : Fault}
    (h : fprStore64 cfg r i v = .error f) : r.fr cfg = false := by
  rcases fprStore64_cases cfg r i v with ⟨_, e⟩ | ⟨hfr, _⟩ | ⟨hfr, _⟩ | ⟨hfr, _⟩
  · cases e.symm.trans h
  all_goals exact hfr

/-- Settles O54: every request but a 64-bit FPR one is an `answer` or a `commit`, and those two raise a code only where
FR is 0. -/
theorem onlyPairedMode64BitFprRequestsViolate : Obligations.OnlyPairedMode64BitFprRequestsViolate := by
  intro i s f h
  cases i with
  | fprRead64 i =>
    simp only [exec, execFprRead64, fprRead64With] at h
    split at h
    next => exact absurd h answer_ne_fault
    next hload => exact ⟨rfl, rfl, fr_of_fprLoad64_error hload⟩
  | fprWrite64 i v =>
    simp only [exec, execFprWrite64, fprWrite64With] at h
    split at h
    next => exact absurd h commit_ne_fault
    next hstore => exact ⟨rfl, rfl, fr_of_fprStore64_error hstore⟩
  | gprRead32 | gprRead64 | fprRead32 | cp0Read | pcRead32 | pcRead64 | mdRead | llRead =>
    exact absurd h answer_ne_fault
  | gprWrite32 | gprWrite64 | fprWrite32 | cp0Write | pcWrite32 | pcWrite64 | mdWrite | llWrite =>
    exact absurd h commit_ne_fault

/-! ## Unwritten reads under `RESET_POLICY = UNKNOWN` -/

/-- A request one of whose reads is of an unwritten part stops at such a part (R232). -/
theorem vexec_of_unwritten {cfg : Config} (hpolicy : cfg.resetPolicy = .unknown) {v : VState} {i : Instr} {p : Part}
    (hread : p ∈ readsOf cfg v.base.regs i) (hp : p ∉ v.written) :
    ∃ p', p' ∉ v.written ∧ vexec cfg i v = .fault (.unwrittenRead p') := by
  have hblocked := blockedRead_unknown hpolicy v v.base.regs i
  cases hfirst : firstUnwritten v.written (readsOf cfg v.base.regs i) with
  | none => exact absurd (firstUnwritten_eq_none.mp hfirst p hread) hp
  | some p' =>
    have hp' : p' ∉ v.written := by simpa using List.find?_some hfirst
    exact ⟨p', hp', vexec_of_blocked (hblocked.trans hfirst)⟩

/-- A request that completes adds what it writes to the record, and nothing else. -/
theorem written_of_vexec_eq_next {cfg : Config} {i : Instr} {v v' : VState} (h : vexec cfg i v = .next v') :
    v'.written = record v.written ((writesOf cfg v.base.regs i).map Prod.fst) := by
  unfold vexec at h
  split at h
  · cases h
  · split at h <;> cases h
    rfl

/-- A 64-bit FPR access touches halves of FPR cells only (R120). -/
theorem cell_of_mem_fprParts64 {cfg : Config} {r : Regs} {i : Idx} {p : Part} (h : p ∈ fprParts64 cfg r i) :
    ∃ j, p.cell = .fpr j := by
  have hwhole : p ∈ wholeCell (.fpr i) → p.cell = .fpr i := by
    simp only [wholeCell, List.mem_cons, List.not_mem_nil, or_false]
    rintro (rfl | rfl) <;> rfl
  unfold fprParts64 at h
  split at h
  · exact ⟨i, hwhole h⟩
  · split at h
    · cases h
    · split at h
      · rcases List.mem_pair.mp h with rfl | rfl <;> exact ⟨_, rfl⟩
      · exact ⟨i, hwhole h⟩

/-- No request writes a half of GPR 0 (R103). -/
theorem gpr_zero_notMem_writesOf (cfg : Config) (r : Regs) (i : Instr) (u : Bool) :
    (⟨.gpr 0, u⟩ : Part) ∉ (writesOf cfg r i).map Prod.fst := by
  cases i with
  | gprWrite32 i v =>
    by_cases hi : i = 0#5
    · simp [writesOf, hi]
    · simp [writesOf, hi, lowPart, Ne.symm hi]
  | gprWrite64 i v =>
    by_cases hi : i = 0#5
    · simp [writesOf, hi]
    · simp [writesOf, hi, wholeWrite, lowPart, highPart, Ne.symm hi]
  | fprWrite64 i v =>
    intro hmem
    obtain ⟨w, hw, hfst⟩ := List.mem_map.mp hmem
    obtain ⟨j, hcell⟩ := cell_of_mem_fprParts64 (List.of_mem_zip hw).1
    rw [hfst] at hcell
    cases hcell
  | _ => simp [writesOf, wholeWrite, lowPart, highPart]

/-- GPR 0 stays unwritten in every step, by the kinds of step. -/
theorem vstep_keeps_gpr_zero_unwritten {cfg : Config} {v v' : VState} {u : Bool}
    (hv : (⟨.gpr 0, u⟩ : Part) ∉ v.written) (h : vstep cfg v = .next v') : (⟨.gpr 0, u⟩ : Part) ∉ v'.written := by
  rcases step_cases v.base with ⟨hin, _⟩ | ⟨q, rest, i, hin, hdec, _⟩ | ⟨q, rest, hin, hdec, _⟩
  · rw [vstep_idle cfg hin] at h
    cases h
    exact hv
  · rw [vstep_request cfg hin hdec] at h
    rw [written_of_vexec_eq_next h, mem_record, not_or]
    exact ⟨hv, gpr_zero_notMem_writesOf cfg _ i u⟩
  · rw [vstep_reserved cfg hin hdec] at h
    cases h

/-- Settles O51: reads of the record's complement stop, and the record never takes up GPR 0. -/
theorem unknownResetReadsFault : Obligations.UnknownResetReadsFault := by
  refine ⟨rfl, fun cfg hpolicy => ⟨fun v i p hread hp => vexec_of_unwritten hpolicy hread hp, rfl,
    fun v v' hv h b => vstep_keeps_gpr_zero_unwritten (hv b) h, fun v hv => ⟨?_, ?_⟩⟩⟩
  · obtain ⟨p, _, h⟩ := vexec_of_unwritten (i := .gprRead32 0) hpolicy (List.mem_cons_self ..) (hv false)
    exact ⟨p, h⟩
  · obtain ⟨p, _, h⟩ := vexec_of_unwritten (i := .gprRead64 0) hpolicy (List.mem_cons_self ..) (hv false)
    exact ⟨p, h⟩

end Sys2Proof.Machine
end

section
/-! SUPPORT. Proofs of the FPR access statements: reads and writes of the FPR bank in both modes and under both layouts
(R122 to R132), and who changes FR (R134). -/

namespace Sys2Proof.Machine

/-! ## The 64-bit FPR requests by mode -/

/-- A 64-bit FPR access at index `i` takes the one cell `i`: in direct mode (R124), and under CONTIGUOUS at an even
index (R130). -/
def TakesOneCell (cfg : Config) (r : Regs) (i : Idx) : Prop :=
  r.fr cfg = true ∨ i.getLsbD 0 = false ∧ cfg.pairedSplit = .contiguous

/-- The storage after a paired write at index `i`: both low halves replaced (R128). -/
def Regs.writePair (r : Regs) (i : Idx) (v : Word) : Regs :=
  (r.writeFpr32 i (low32 v)).writeFpr32 (i + 1#5) (high32 v)

section
variable {cfg : Config} {s : State} {i : Idx} {v : Word}

theorem execWith_fprRead64_of_oneCell (h : TakesOneCell cfg s.regs i) :
    execWith cfg (.fprRead64 i) s = answer s (s.regs.readFpr i) := by
  have hload : fprLoad64 cfg s.regs i = .ok (s.regs.readFpr i) := by
    rcases h with hfr | ⟨heven, hsplit⟩
    · simp only [fprLoad64, hfr, if_true]
    · simp only [fprLoad64, heven, hsplit, Bool.false_eq_true, if_false, ite_self]
  simp only [execWith, fprRead64With, hload]

theorem execWith_fprWrite64_of_oneCell (h : TakesOneCell cfg s.regs i) :
    execWith cfg (.fprWrite64 i v) s = commit s (s.regs.writeFpr i v) := by
  have hstore : fprStore64 cfg s.regs i v = .ok (s.regs.writeFpr i v) := by
    rcases h with hfr | ⟨heven, hsplit⟩
    · simp only [fprStore64, hfr, if_true]
    · simp only [fprStore64, heven, hsplit, Bool.false_eq_true, if_false, ite_self]
  simp only [execWith, fprWrite64With, hstore]

theorem execWith_fprRead64_of_pair (hfr : s.regs.fr cfg = false) (heven : i.getLsbD 0 = false)
    (hsplit : cfg.pairedSplit = .exactSplit) :
    execWith cfg (.fprRead64 i) s =
      answer s (join (low32 (s.regs.readFpr (i + 1#5))) (low32 (s.regs.readFpr i))) := by
  simp only [execWith, fprRead64With, fprLoad64, hfr, heven, hsplit, Bool.false_eq_true, if_false]

theorem execWith_fprWrite64_of_pair (hfr : s.regs.fr cfg = false) (heven : i.getLsbD 0 = false)
    (hsplit : cfg.pairedSplit = .exactSplit) :
    execWith cfg (.fprWrite64 i v) s = commit s (s.regs.writePair i v) := by
  simp only [execWith, fprWrite64With, fprStore64, hfr, heven, hsplit, Bool.false_eq_true, if_false, Regs.writePair]

theorem execWith_fprRead64_of_odd (hfr : s.regs.fr cfg = false) (hodd : i.getLsbD 0 = true) :
    execWith cfg (.fprRead64 i) s = raise .oddPair := by
  simp only [execWith, fprRead64With, fprLoad64, hfr, hodd, Bool.false_eq_true, if_false, if_true]

theorem execWith_fprWrite64_of_odd (hfr : s.regs.fr cfg = false) (hodd : i.getLsbD 0 = true) :
    execWith cfg (.fprWrite64 i v) s = raise .oddPair := by
  simp only [execWith, fprWrite64With, fprStore64, hfr, hodd, Bool.false_eq_true, if_false, if_true]

end

/-! ## The FPR requests of this hardware -/

section
variable {s : State} {i : Idx}

theorem exec_fprRead32_of_low {v : Half} (h : low32 (s.regs.readFpr i) = v) :
    exec (.fprRead32 i) s = .next { s with rsp := ⟨zext64 v, .ok⟩ } :=
  congrArg (fun w => answer s (zext64 w)) h

theorem exec_fprRead64_direct {v : Word} (hfr : s.regs.fr Config.hw = true) (h : s.regs.readFpr i = v) :
    exec (.fprRead64 i) s = .next { s with rsp := ⟨v, .ok⟩ } :=
  (execWith_fprRead64_of_oneCell (.inl hfr)).trans (congrArg (answer s) h)

/-- In paired mode an even index answers the low half of its successor above its own (R125, R127). -/
theorem exec_fprRead64_paired {hi lo : Half} (hfr : s.regs.fr Config.hw = false) (heven : i.getLsbD 0 = false)
    (hhi : low32 (s.regs.readFpr (i + 1)) = hi) (hlo : low32 (s.regs.readFpr i) = lo) :
    exec (.fprRead64 i) s = .next { s with rsp := ⟨join hi lo, .ok⟩ } := by
  subst hhi hlo
  exact execWith_fprRead64_of_pair hfr heven rfl

theorem exec_fprWrite64_direct (hfr : s.regs.fr Config.hw = true) (v : Word) :
    exec (.fprWrite64 i v) s = commit s (s.regs.writeFpr i v) :=
  execWith_fprWrite64_of_oneCell (.inl hfr)

theorem exec_fprWrite64_paired (hfr : s.regs.fr Config.hw = false) (heven : i.getLsbD 0 = false) (v : Word) :
    exec (.fprWrite64 i v) s = commit s (s.regs.writePair i v) :=
  execWith_fprWrite64_of_pair hfr heven rfl

theorem exec_fprRead64_odd (hfr : s.regs.fr Config.hw = false) (hodd : i.getLsbD 0 = true) :
    exec (.fprRead64 i) s = .fault .oddPair :=
  execWith_fprRead64_of_odd (cfg := Config.hw) hfr hodd

theorem exec_fprWrite64_odd {v : Word} (hfr : s.regs.fr Config.hw = false) (hodd : i.getLsbD 0 = true) :
    exec (.fprWrite64 i v) s = .fault .oddPair :=
  execWith_fprWrite64_of_odd (cfg := Config.hw) hfr hodd

/-- A request that commits one replaced FPR cell changes that cell and the response. -/
theorem exists_bank_of_writeFpr {a : Result} {v : Word} (h : a = commit s (s.regs.writeFpr i v)) :
    ∃ f : Bank, a = .next { s with regs := { s.regs with fpr := f }, rsp := ⟨0, .ok⟩ } ∧
      cellAt f i = v ∧ ∀ j, j ≠ i → cellAt f j = s.regs.readFpr j :=
  ⟨_, h, cellAt_setCell_self _ _ _, fun _ hj => cellAt_setCell_of_ne _ hj _⟩

end

/-! ## The cells after a paired write -/

theorem Regs.readFpr_writePair_self (r : Regs) (i : Idx) (v : Word) :
    (r.writePair i v).readFpr i = setLow32 (r.readFpr i) (low32 v) := by
  simp [Regs.writePair, Regs.readFpr_writeFpr32, (idx_succ_ne i).symm]

theorem Regs.readFpr_writePair_succ (r : Regs) (i : Idx) (v : Word) :
    (r.writePair i v).readFpr (i + 1) = setLow32 (r.readFpr (i + 1)) (high32 v) := by
  simp [Regs.writePair, Regs.readFpr_writeFpr32]

theorem Regs.readFpr_writePair_of_ne {i j : Idx} (hi : j ≠ i) (hsucc : j ≠ i + 1) (r : Regs) (v : Word) :
    (r.writePair i v).readFpr j = r.readFpr j :=
  (Regs.readFpr_writeFpr32 _ _ _ _).trans
    ((if_neg hsucc).trans ((Regs.readFpr_writeFpr32 _ _ _ _).trans (if_neg hi)))

theorem Regs.high32_readFpr_writeFpr32 (r : Regs) (i j : Idx) (v : Half) :
    high32 ((r.writeFpr32 i v).readFpr j) = high32 (r.readFpr j) := by
  rw [Regs.readFpr_writeFpr32]
  split
  next h => rw [h, high32_setLow32]
  next => rfl

/-! ## FPR_READ64 and FPR_WRITE64 -/

/-- Settles O26, by mode and parity. -/
theorem fprRead64Result : Obligations.FprRead64Result := fun i _ =>
  ⟨decode_of_cmd_eq (.fprRead64 i) (cmdWord_eq_add 0x05 i),
    fun hfr => ⟨exec_fprRead64_direct hfr rfl, execWith_fprRead64_of_oneCell (.inl hfr)⟩,
    fun hfr heven => ⟨exec_fprRead64_paired hfr heven rfl rfl, execWith_fprRead64_of_oneCell (.inr ⟨heven, rfl⟩)⟩,
    fun hfr hodd => ⟨exec_fprRead64_odd hfr hodd, execWith_fprRead64_of_odd hfr hodd⟩⟩

/-- Settles O27, by mode and parity. -/
theorem fprWrite64Result : Obligations.FprWrite64Result := by
  intro i v s
  refine ⟨decode_of_cmd_eq (.fprWrite64 i v) (cmdWord_eq_add 0x07 i), fun hfr => ?_, fun hfr heven => ?_,
    fun h => ?_, fun hfr hodd => ?_⟩
  · exact exists_bank_of_writeFpr (exec_fprWrite64_direct hfr v)
  · exact ⟨_, exec_fprWrite64_paired hfr heven v, Regs.readFpr_writePair_self _ _ _,
      Regs.readFpr_writePair_succ _ _ _, fun _ hi hsucc => Regs.readFpr_writePair_of_ne hi hsucc _ _⟩
  · exact exists_bank_of_writeFpr (execWith_fprWrite64_of_oneCell (h.imp_right fun heven => ⟨heven, rfl⟩))
  · exact ⟨exec_fprWrite64_odd hfr hodd, execWith_fprWrite64_of_odd hfr hodd⟩

/-! ## The CONTIGUOUS layout -/

/-- Settles O29. Law (b) fails at index 0 after reset: the written value's upper half goes to the upper half of `fpr[0]`,
and `fpr[1]` still reads 0. -/
theorem contiguousVariantActsDirect : Obligations.ContiguousVariantActsDirect := by
  refine ⟨rfl, fun i v s heven _ => ⟨execWith_fprRead64_of_oneCell (.inr ⟨heven, rfl⟩),
    exists_bank_of_writeFpr (execWith_fprWrite64_of_oneCell (.inr ⟨heven, rfl⟩))⟩,
    State.reset, _, 0, 0x100000000, by decide, rfl, execWith_fprWrite64_of_oneCell (.inr ⟨rfl, rfl⟩), fun h => ?_⟩
  have hrsp := congrArg State.rsp (answer_eq_next.mp h)
  revert hrsp
  decide

/-! ## The upper halves -/

/-- FPR banks that agree in all low halves give the same parts of the storage, but for upper halves of FPRs. -/
theorem Regs.part_of_low32_fpr {r : Regs} {f : Bank} (h : ∀ j, low32 (cellAt f j) = low32 (r.readFpr j)) {p : Part}
    (hp : ∀ j, p ≠ highPart (.fpr j)) : Regs.part { r with fpr := f } p = r.part p := by
  obtain ⟨cell, upper⟩ := p
  cases cell with
  | fpr j =>
    cases upper with
    | false => exact h j
    | true => exact absurd rfl (hp j)
  | _ => rfl

/-- Only a direct-mode FPR_READ64 reads the upper half of an FPR (R131). -/
theorem highPart_fpr_notMem_readsOf {r : Regs} {i : Instr} (hi : r.fr Config.hw = false ∨ ∀ k, i ≠ .fprRead64 k)
    (j : Idx) : highPart (.fpr j) ∉ readsOf Config.hw r i := by
  cases i with
  | fprRead64 k =>
    have hfr : r.fr Config.hw = false := hi.resolve_right fun hne => hne k rfl
    cases hk : k.getLsbD 0 with
    | true => simp [readsOf, fprParts64, hfr, hk, highPart, frPart]
    | false => simp [readsOf, fprParts64_of_exact hfr hk rfl, highPart, lowPart, frPart]
  | _ => simp [readsOf, wholeCell, highPart, lowPart, frPart]

/-- In paired mode FPR_WRITE64 keeps all upper halves (R131). -/
theorem RegsAfter.fprWrite64_keeps_high32 {r r' : Regs} {i : Idx} {v : Word} (h : RegsAfter r (.fprWrite64 i v) r')
    (hfr : r.fr Config.hw = false) (j : Idx) : high32 (r'.readFpr j) = high32 (r.readFpr j) := by
  cases h with
  | read hread => cases hread
  | fprWrite64Direct _ _ hdirect => exact absurd (hfr.symm.trans hdirect) Bool.false_ne_true
  | fprWrite64Paired => rw [Regs.high32_readFpr_writeFpr32, Regs.high32_readFpr_writeFpr32]

/-- Settles O30: a paired write replaces low halves, and the other requests do not read the parts that differ. -/
theorem upperHalvesOnlySeenDirect : Obligations.UpperHalvesOnlySeenDirect := by
  refine ⟨fun i v s t hfr h => (exec_regsAfter h).fprWrite64_keeps_high32 hfr, fun s f i hlow hi => ?_⟩
  have hagree : AgreeOn (readsOf Config.hw s.regs i) { s.regs with fpr := f } s.regs := fun p hp =>
    Regs.part_of_low32_fpr hlow fun j hj => highPart_fpr_notMem_readsOf hi j (hj ▸ hp)
  have halike := exec_answersAlike (u := { s with regs := { s.regs with fpr := f } }) hagree
  exact ⟨fun _ => halike.next, fun _ => halike.fault⟩

/-! ## Write then read, in one mode and across a mode switch -/

/-- After a direct-mode FPR_WRITE64 the mode is the same, the cell holds the value, the other FPRs what they held. -/
theorem exec_fprWrite64_direct_holds {s : State} (hfr : s.regs.fr Config.hw = true) (i : Idx) (v : Word) :
    ∃ t, exec (.fprWrite64 i v) s = .next t ∧ t.regs.fr Config.hw = true ∧ t.regs.readFpr i = v ∧
      ∀ j, j ≠ i → t.regs.readFpr j = s.regs.readFpr j :=
  ⟨_, exec_fprWrite64_direct hfr v, hfr, cellAt_setCell_self _ _ _, fun _ hj => cellAt_setCell_of_ne _ hj _⟩

/-- After a paired FPR_WRITE64 the mode is the same and both cells hold a half of the value below their old upper
half. -/
theorem exec_fprWrite64_paired_holds {s : State} {i : Idx} (hfr : s.regs.fr Config.hw = false)
    (heven : i.getLsbD 0 = false) (v : Word) :
    ∃ t, exec (.fprWrite64 i v) s = .next t ∧ t.regs.fr Config.hw = false ∧
      t.regs.readFpr i = setLow32 (s.regs.readFpr i) (low32 v) ∧
      t.regs.readFpr (i + 1) = setLow32 (s.regs.readFpr (i + 1)) (high32 v) :=
  ⟨_, exec_fprWrite64_paired hfr heven v, hfr, Regs.readFpr_writePair_self _ _ _, Regs.readFpr_writePair_succ _ _ _⟩

/-- A CP0_WRITE to Status sets FR to the bit of the value and leaves every FPR (R134, R151). -/
theorem exec_statusWrite_holds (s : State) (st : Word) :
    ∃ t, exec (.cp0Write Config.hw.statusIndex st) s = .next t ∧
      t.regs.fr Config.hw = st.getLsbD Config.hw.frBit ∧ ∀ j, t.regs.readFpr j = s.regs.readFpr j :=
  ⟨_, rfl, congrArg (·.getLsbD Config.hw.frBit) (cellAt_setCell_self s.regs.cp0 _ st), fun _ => rfl⟩

theorem join_low32_eq_iff {h : Half} {v : Word} : join h (low32 v) = v ↔ h = high32 v := by
  constructor
  · intro e
    rw [← e, high32_join]
  · rintro rfl
    exact join_high32_low32 v

/-- Settles O31, law by law: the write that completes, the cells it leaves, and the read of them in the mode that FR then
says. -/
theorem fprModeLaws : Obligations.FprModeLaws := by
  intro s i v w
  refine ⟨fun hfr => ?_, fun hfr heven => ?_, ?_, fun st hfr heven hst => ?_, fun st hfr heven hst => ?_⟩
  · obtain ⟨t, ht, hfr', hcell, _⟩ := exec_fprWrite64_direct_holds hfr i v
    exact ⟨t, ht, exec_fprRead64_direct hfr' hcell⟩
  · obtain ⟨t, ht, hfr', hcell, hsucc⟩ := exec_fprWrite64_paired_holds hfr heven v
    have hlo : low32 (t.regs.readFpr i) = low32 v := by rw [hcell, low32_setLow32]
    have hhi : low32 (t.regs.readFpr (i + 1)) = high32 v := by rw [hsucc, low32_setLow32]
    refine ⟨t, ht, exec_fprRead32_of_low hlo, exec_fprRead32_of_low hhi, ?_⟩
    rw [exec_fprRead64_paired hfr' heven hhi hlo, join_high32_low32]
  · exact ⟨_, rfl, exec_fprRead32_of_low ((congrArg low32 (cellAt_setCell_self _ _ _)).trans (low32_setLow32 _ w))⟩
  · obtain ⟨t, ht, _, hcell, hframe⟩ := exec_fprWrite64_direct_holds hfr i v
    obtain ⟨u, hu, hfr', hfpr⟩ := exec_statusWrite_holds t st
    have hsucc : u.regs.readFpr (i + 1) = s.regs.readFpr (i + 1) := (hfpr _).trans (hframe _ (idx_succ_ne i))
    have hread := exec_fprRead64_paired (hfr'.trans hst) heven (congrArg low32 hsucc)
      (congrArg low32 ((hfpr i).trans hcell))
    exact ⟨t, u, ht, hu, hread, join_low32_eq_iff⟩
  · obtain ⟨t, ht, _, hcell, _⟩ := exec_fprWrite64_paired_holds hfr heven v
    obtain ⟨u, hu, hfr', hfpr⟩ := exec_statusWrite_holds t st
    exact ⟨t, u, ht, hu, exec_fprRead64_direct (hfr'.trans hst) ((hfpr i).trans hcell)⟩

/-! ## Who changes FR -/

theorem exec_fpr_keeps_cp0 {i : Instr} {s t : State} (hfpr : targetOfInstr i = .fpr) (h : exec i s = .next t) :
    t.regs.cp0 = s.regs.cp0 := by
  refine Bank.ext_cellAt fun j => ?_
  by_contra hchanged
  obtain ⟨v, rfl⟩ := (exec_regsAfter h).cp0_changed hchanged
  cases hfpr

theorem exec_fr_changed {i : Instr} {s t : State} (h : exec i s = .next t)
    (hfr : t.regs.fr Config.hw ≠ s.regs.fr Config.hw) : ∃ v, i = .cp0Write Config.hw.statusIndex v :=
  (exec_regsAfter h).cp0_changed fun hcell => hfr (congrArg (·.getLsbD Config.hw.frBit.val) hcell)

/-- Settles O32, by the kinds of step: an idle step keeps the storage, and of the requests only a CP0_WRITE changes
Status. -/
theorem frChangesOnlyByStatusWrite : Obligations.FrChangesOnlyByStatusWrite := by
  refine ⟨fun _ _ _ => exec_fpr_keeps_cp0, fun s t h hfr => ?_⟩
  rcases step_cases s with ⟨_, hs⟩ | ⟨q, rest, i, hin, hdec, hs⟩ | ⟨q, rest, _, _, hs⟩
  · cases hs.symm.trans h
    exact absurd rfl hfr
  · obtain ⟨v, rfl⟩ := exec_fr_changed (hs.symm.trans h) hfr
    exact ⟨q, rest, v, hin, hdec⟩
  · cases hs.symm.trans h

/-! ## The 32-bit requests -/

theorem idx_pred_even {i : Idx} (h : i.getLsbD 0 = true) : (i - 1).getLsbD 0 = false := by
  revert i; decide

/-- Settles O24: the answer is the cell's low half, which the pair below an odd index has above. -/
theorem fprRead32Result : Obligations.FprRead32Result := by
  intro i s
  refine ⟨decode_of_cmd_eq (.fprRead32 i) (cmdWord_eq_add 0x04 i), exec_fprRead32_of_low rfl, fun hfr hodd => ?_⟩
  refine ⟨_, exec_fprRead64_paired hfr (idx_pred_even hodd) rfl rfl, ?_⟩
  rw [BitVec.sub_add_cancel]
  exact high32_join _ _

/-- Settles O25: the request replaces one cell, by its upper half above the value. -/
theorem fprWrite32Result : Obligations.FprWrite32Result := fun i v _ =>
  ⟨decode_of_cmd_eq (.fprWrite32 i v) (cmdWord_eq_add 0x06 i), exists_bank_of_writeFpr rfl⟩

/-! ## ODD_PAIR at the port -/

/-- A presented request that faults leaves the storage, and the port shows 0 and its code (R200). -/
theorem portStep_of_presented_fault {s : State} {q : Request} {rest : List PortInput} {i : Instr} {f : Fault}
    (hin : s.input = ⟨true, q⟩ :: rest) (hdec : decode q = some i)
    (h : exec i { s with input := rest } = .fault f) :
    step s = .fault f ∧ (portStep s).regs = s.regs ∧ (portStep s).rsp = ⟨0, faultErr f⟩ := by
  have hstep : step s = .fault f := (stepRunsTheDecodedRequest s q rest i hin hdec).trans h
  rw [portStep_of_fault hstep, fetch_request hin]
  exact ⟨hstep, rfl, rfl⟩

/-- Settles O28: FR = 0 and the odd index raise the code in every layout, so also at the port. -/
theorem oddIndexInPairedModeForbidden : Obligations.OddIndexInPairedModeForbidden := by
  intro s i v hfr hodd
  refine ⟨fun split => ⟨execWith_fprRead64_of_odd hfr hodd, execWith_fprWrite64_of_odd hfr hodd⟩,
    exec_fprRead64_odd hfr hodd, exec_fprWrite64_odd hfr hodd,
    fun q rest hin hdec => ?_⟩
  obtain ⟨hstep, hregs, hrsp⟩ := hdec.elim
    (fun hdec => portStep_of_presented_fault hin hdec (exec_fprRead64_odd hfr hodd))
    (fun hdec => portStep_of_presented_fault hin hdec (exec_fprWrite64_odd hfr hodd))
  exact ⟨hstep, hregs, hrsp, rfl⟩

end Sys2Proof.Machine
end

section
/-! SUPPORT. Proofs of the CP0 access statements: reads and writes of the CP0 bank (R150, R151, R156), and FR as the next
64-bit FPR request finds it (R152). -/

namespace Sys2Proof.Machine

/-! ## CP0_READ and CP0_WRITE -/

/-- Where CP0 cell `i` holds `v`, CP0_READ answers `v` (R150). -/
theorem exec_cp0Read_of_readCp0 {i : Idx} {t : State} {v : Word} (h : t.regs.readCp0 i = v) :
    exec (.cp0Read i) t = .next { t with rsp := ⟨v, .ok⟩ } :=
  congrArg (answer t) h

/-- After CP0_WRITE the cell holds the value, and every other cell of every bank what it held (R151). -/
theorem exec_cp0Write_holds (i : Idx) (v : Word) (s : State) :
    ∃ t, exec (.cp0Write i v) s = .next t ∧ t.regs.readCp0 i = v ∧
      (∀ j, j ≠ i → t.regs.readCp0 j = s.regs.readCp0 j) ∧ t.regs.gpr = s.regs.gpr ∧ t.regs.fpr = s.regs.fpr ∧
      t.regs.pc = s.regs.pc ∧ t.regs.hi = s.regs.hi ∧ t.regs.lo = s.regs.lo ∧ t.regs.llbit = s.regs.llbit :=
  ⟨_, rfl, cellAt_setCell_self _ _ _, fun _ hj => cellAt_setCell_of_ne _ hj _, rfl, rfl, rfl, rfl, rfl, rfl⟩

/-- Settles O33: the answer is the cell. -/
theorem cp0ReadResult : Obligations.Cp0ReadResult := fun i _ =>
  ⟨decode_of_cmd_eq (.cp0Read i) (cmdWord_eq_add 0x09 i), exec_cp0Read_of_readCp0 rfl⟩

/-- Settles O34: the new bank is the old one with the cell replaced. -/
theorem cp0WriteResult : Obligations.Cp0WriteResult := fun i v s =>
  ⟨decode_of_cmd_eq (.cp0Write i v) (cmdWord_eq_add 0x0B i), setCell s.regs.cp0 i v, rfl,
    cellAt_setCell_self _ _ _, fun _ hj => cellAt_setCell_of_ne _ hj _⟩

/-- Settles O36: the read answers what the write left in its cell. -/
theorem cp0RoundTrip : Obligations.Cp0RoundTrip := by
  intro s i v
  obtain ⟨t, ht, hcell, hframe⟩ := exec_cp0Write_holds i v s
  exact ⟨t, ht, exec_cp0Read_of_readCp0 hcell, hframe⟩

/-! ## A write of Status and the next 64-bit FPR request -/

theorem Regs.readFpr_congr {r r' : Regs} (h : r'.fpr = r.fpr) (j : Idx) : r'.readFpr j = r.readFpr j :=
  congrArg (cellAt · j) h

/-- Settles O35: after the write FR is bit 26 of the value and the FPRs hold what they held, and the next 64-bit FPR
request is one in that mode on those cells. -/
theorem statusWriteSetsFrLive : Obligations.StatusWriteSetsFrLive := by
  intro s v
  obtain ⟨t, ht, hcell, hother, hgpr, hfpr, hpc, hhi, hlo, hll⟩ := exec_cp0Write_holds 12 v s
  have hfr : t.regs.fr Config.hw = v.getLsbD 26 := congrArg (·.getLsbD 26) hcell
  have hread := Regs.readFpr_congr hfpr
  refine ⟨t, ht, hcell, hfr, hfpr, hgpr, hpc, hhi, hlo, hll, hother, fun i hv => ?_, fun i hv heven => ?_,
    fun i hv hodd d => ?_⟩
  · refine ⟨exec_fprRead64_direct (hfr.trans hv) (hread i), fun d => ?_⟩
    obtain ⟨u, hu, _, hd, _⟩ := exec_fprWrite64_direct_holds (hfr.trans hv) i d
    exact ⟨u, hu, hd⟩
  · rw [← hread i, ← hread (i + 1)]
    refine ⟨exec_fprRead64_paired (hfr.trans hv) heven rfl rfl, fun d => ?_⟩
    obtain ⟨u, hu, _, hd, hsucc⟩ := exec_fprWrite64_paired_holds (hfr.trans hv) heven d
    exact ⟨u, hu, hd, hsucc⟩
  · exact ⟨exec_fprRead64_odd (hfr.trans hv) hodd, exec_fprWrite64_odd (hfr.trans hv) hodd⟩

end Sys2Proof.Machine
end

section
/-! SUPPORT. Proofs of the auxiliary access statements: the program counter, the multiply-result pair and the
load-linked flag (R170 to R179). -/

namespace Sys2Proof.Machine

/-! ## Command words with a bad `idx` -/

/-- A word of either of two single-cell `op` values decodes to nothing where `idx` is not 0 (R77). -/
theorem decode_single_eq_none {a b : BitVec 5} (ha : a ∈ singleCellOps) (hb : b ∈ singleCellOps) (w : Word) {c : Cmd}
    (hop : opOf c = a ∨ opOf c = b) (hidx : idxOf c ≠ 0) : decode ⟨c, w⟩ = none := by
  have hmem : opOf c ∈ singleCellOps := hop.elim (fun h => h ▸ ha) (fun h => h ▸ hb)
  exact decode_eq_none.mpr (.inr (.inl ⟨hmem, hidx⟩))

/-- A word of either HI/LO `op` value decodes to nothing where `idx[4:1]` is not 0 (R77). -/
theorem decode_selected_eq_none (w : Word) {c : Cmd} (hop : opOf c = 0x11 ∨ opOf c = 0x13)
    (hidx : (idxOf c).extractLsb' 1 4 ≠ 0) : decode ⟨c, w⟩ = none := by
  have hmem : opOf c ∈ selectOps := by simpa [selectOps] using hop
  exact decode_eq_none.mpr (.inr (.inr ⟨hmem, hidx⟩))

/-! ## The reads, by what the cell holds -/

section Reads
variable {t : State}

/-- Where `pc` holds `v` below, PC_READ32 answers `v` zero-extended (R170). -/
theorem exec_pcRead32_of_low {v : Half} (h : low32 t.regs.pc = v) :
    exec .pcRead32 t = .next { t with rsp := ⟨zext64 v, .ok⟩ } :=
  congrArg (fun w => answer t (zext64 w)) h

/-- Where `pc` holds `v`, PC_READ64 answers `v` (R171). -/
theorem exec_pcRead64_of_pc {v : Word} (h : t.regs.pc = v) :
    exec .pcRead64 t = .next { t with rsp := ⟨v, .ok⟩ } :=
  congrArg (answer t) h

/-- Where HI or LO holds `v`, its MD_READ answers `v` (R174). -/
theorem exec_mdRead_of_readMd {k : MdSel} {v : Word} (h : t.regs.readMd k = v) :
    exec (.mdRead k) t = .next { t with rsp := ⟨v, .ok⟩ } :=
  congrArg (answer t) h

theorem zextBit_eq_ite (b : Bool) : zextBit b = if b then 1 else 0 := by
  cases b <;> rfl

/-- Where the flag is `b`, LL_READ answers 1 or 0 by it (R176). -/
theorem exec_llRead_of_llbit {b : Bool} (h : t.regs.llbit = b) :
    exec .llRead t = .next { t with rsp := ⟨if b then 1 else 0, .ok⟩ } :=
  congrArg (answer t) ((congrArg zextBit h).trans (zextBit_eq_ite b))

end Reads

/-! ## The requests one by one -/

/-- Settles O38: the answers are the low half of `pc` and the whole of it. -/
theorem pcReadResults : Obligations.PcReadResults := fun _ w =>
  ⟨decode_of_cmd_eq .pcRead32 rfl w, decode_of_cmd_eq .pcRead64 rfl w,
    fun _ => decode_single_eq_none (by decide) (by decide) w, exec_pcRead32_of_low rfl, exec_pcRead64_of_pc rfl⟩

/-- Settles O39: PC_WRITE32 commits the upper half of `pc` above the value, PC_WRITE64 the value. -/
theorem pcWriteResults : Obligations.PcWriteResults := fun _ h v w =>
  ⟨decode_of_cmd_eq (.pcWrite32 h) rfl w, decode_of_cmd_eq (.pcWrite64 v) rfl w,
    fun _ => decode_single_eq_none (by decide) (by decide) w, rfl, rfl⟩

/-- Settles O40: each command word is that of its request, and HI and LO are two fields of the storage. -/
theorem mdResults : Obligations.MdResults := fun _ v w =>
  ⟨decode_of_cmd_eq (.mdRead .hi) rfl w, decode_of_cmd_eq (.mdRead .lo) rfl w,
    decode_of_cmd_eq (.mdWrite .hi v) rfl w, decode_of_cmd_eq (.mdWrite .lo v) rfl w,
    fun _ => decode_selected_eq_none w, exec_mdRead_of_readMd rfl, exec_mdRead_of_readMd rfl, rfl, rfl⟩

/-! ## Who changes the flag -/

/-- A request that changes the flag is an LL_WRITE, and of the value the flag then has. -/
theorem exec_llbit_changed {i : Instr} {s t : State} (h : exec i s = .next t) (hll : t.regs.llbit ≠ s.regs.llbit) :
    i = .llWrite t.regs.llbit := by
  obtain ⟨b, rfl⟩ := (exec_regsAfter h).ll_changed hll
  rw [regs_of_commit_eq_next h, Regs.writeLl_llbit]

/-- Settles O41, its last part by the kinds of step: an idle step keeps the flag, and of the requests only an LL_WRITE
changes it. -/
theorem llResults : Obligations.LlResults := by
  intro s b w
  refine ⟨decode_of_cmd_eq .llRead rfl w, decode_of_cmd_eq (.llWrite b) rfl w,
    fun _ => decode_single_eq_none (by decide) (by decide) w, exec_llRead_of_llbit rfl, rfl, fun t h hll => ?_⟩
  rcases step_cases s with ⟨_, hs⟩ | ⟨q, rest, i, hin, hdec, hs⟩ | ⟨_, _, _, _, hs⟩
  · cases hs.symm.trans h
    exact absurd rfl hll
  · exact ⟨q, rest, hin, hdec.trans (congrArg some (exec_llbit_changed (hs.symm.trans h) hll))⟩
  · cases hs.symm.trans h

/-! ## Write then read, and the frame -/

/-- After an MD_WRITE the named one of HI and LO holds the value, the other what it held (R175). -/
theorem exec_mdWrite_holds (k : MdSel) (v : Word) (s : State) :
    ∃ t, exec (.mdWrite k v) s = .next t ∧ t.regs.readMd k = v ∧ ∀ m, m ≠ k → t.regs.readMd m = s.regs.readMd m :=
  ⟨_, rfl, (Regs.readMd_writeMd _ _ _ _).trans (if_pos rfl),
    fun _ hm => (Regs.readMd_writeMd _ _ _ _).trans (if_neg hm)⟩

/-- A request of the program counter, HI and LO or the flag leaves all three banks as they were (R179). -/
theorem RegsAfter.auxiliary_keeps_banks {r r' : Regs} {i : Instr} (h : RegsAfter r i r')
    (haux : targetOfInstr i = .pc ∨ targetOfInstr i = .md ∨ targetOfInstr i = .ll) :
    r'.gpr = r.gpr ∧ r'.fpr = r.fpr ∧ r'.cp0 = r.cp0 := by
  cases h with
  | read | pcWrite32 | pcWrite64 | llWrite => exact ⟨rfl, rfl, rfl⟩
  | mdWrite k v => exact ⟨r.writeMd_gpr k v, r.writeMd_fpr k v, r.writeMd_cp0 k v⟩
  | gprWrite32 | gprWrite64 | fprWrite32 | fprWrite64Direct | fprWrite64Paired | cp0Write =>
    simp [targetOfInstr] at haux

/-- Settles O42: each read answers what the write before it left in the cell. -/
theorem auxiliaryRoundTrips : Obligations.AuxiliaryRoundTrips := by
  intro s v h b
  refine ⟨⟨_, rfl, exec_pcRead64_of_pc rfl⟩, ⟨_, rfl, exec_pcRead32_of_low (low32_setLow32 _ h)⟩, fun k k' => ?_,
    ⟨_, rfl, exec_llRead_of_llbit rfl⟩, fun i t haux hexec => (exec_regsAfter hexec).auxiliary_keeps_banks haux⟩
  obtain ⟨t, ht, hcell, hother⟩ := exec_mdWrite_holds k v s
  exact ⟨t, ht, exec_mdRead_of_readMd hcell, hother k'⟩

end Sys2Proof.Machine
end

section
/-! SUPPORT. Proofs of the exception statements: the causes of the two codes (R201, R204), the caller's contract (R203,
R206), and what the port shows of a violation (R200). -/

namespace Sys2Proof.Machine

/-! ## The causes of a violation -/

/-- R201, code by code: what makes a command word violate the contract in the mode that `fr` names. -/
def ViolationCause (fr : Bool) (c : Cmd) : Fault → Prop
  | .reservedEncoding => ReservedWord c
  | .oddPair => (opOf c = 0x05 ∨ opOf c = 0x07) ∧ fr = false ∧ (idxOf c).getLsbD 0 = true

theorem not_reservedWord_of_fpr64 {c : Cmd} (hop : opOf c = 0x05 ∨ opOf c = 0x07) : ¬ ReservedWord c := by
  rcases hop with hop | hop <;> simp [ReservedWord, hop, reservedOps, singleCellOps, selectOps]

/-- A reserved word violates the contract by its encoding and in no other way (R204). -/
theorem violationCause_of_reservedWord {fr : Bool} {c : Cmd} {f : Fault} (h : ReservedWord c) :
    ViolationCause fr c f ↔ f = .reservedEncoding := by
  cases f with
  | reservedEncoding => exact iff_of_true h rfl
  | oddPair => exact iff_of_false (fun ⟨hop, _⟩ => not_reservedWord_of_fpr64 hop h) nofun

theorem exists_violationCause {fr : Bool} {c : Cmd} : (∃ f, ViolationCause fr c f) ↔
    ViolationCause fr c .reservedEncoding ∨ ViolationCause fr c .oddPair := by
  refine ⟨fun ⟨f, h⟩ => ?_, fun h => h.elim (⟨_, ·⟩) (⟨_, ·⟩)⟩
  cases f with
  | reservedEncoding => exact .inl h
  | oddPair => exact .inr h

/-- The caller's contract is broken exactly where a code has a cause (R201). -/
theorem obeysContract_eq_false {fr : Bool} {c : Cmd} :
    obeysContract fr c = false ↔ ∃ f, ViolationCause fr c f := by
  rw [exists_violationCause, obeysContract, Bool.and_eq_false_iff, wellFormedCmd_eq_false]
  simp [ViolationCause, and_left_comm, and_assoc, or_iff_not_imp_left]

/-! ## The requests that fault -/

/-- The fault of an outcome that completes in direct mode and at an even index, and is ODD_PAIR elsewhere (R129). -/
theorem eq_oddPair_iff_of_modes {a : Result} {fr odd : Bool} (hdirect : fr = true → ∃ t, a = .next t)
    (heven : fr = false → odd = false → ∃ t, a = .next t) (hodd : fr = false → odd = true → a = .fault .oddPair) :
    a = .fault .oddPair ↔ fr = false ∧ odd = true := by
  have hnext : (∃ t, a = .next t) → a ≠ .fault .oddPair := by
    rintro ⟨t, rfl⟩
    nofun
  cases fr with
  | true => exact iff_of_false (hnext (hdirect rfl)) nofun
  | false =>
    cases odd with
    | false => exact iff_of_false (hnext (heven rfl rfl)) nofun
    | true => exact iff_of_true (hodd rfl rfl) ⟨rfl, rfl⟩

theorem exec_fprRead64_eq_oddPair {i : Idx} {s : State} :
    exec (.fprRead64 i) s = .fault .oddPair ↔ s.regs.fr Config.hw = false ∧ i.getLsbD 0 = true :=
  eq_oddPair_iff_of_modes (fun hfr => ⟨_, exec_fprRead64_direct hfr rfl⟩)
    (fun hfr heven => ⟨_, exec_fprRead64_paired hfr heven rfl rfl⟩) exec_fprRead64_odd

theorem exec_fprWrite64_eq_oddPair {i : Idx} {v : Word} {s : State} :
    exec (.fprWrite64 i v) s = .fault .oddPair ↔ s.regs.fr Config.hw = false ∧ i.getLsbD 0 = true :=
  eq_oddPair_iff_of_modes (fun hfr => ⟨_, exec_fprWrite64_direct hfr v⟩)
    (fun hfr heven => ⟨_, exec_fprWrite64_paired hfr heven v⟩) exec_fprWrite64_odd

/-- ODD_PAIR is the only code a request raises (R129). -/
theorem fault_eq_oddPair_of_exec {i : Instr} {s : State} {f : Fault} (h : exec i s = .fault f) : f = .oddPair := by
  rcases exec_ends i s with ⟨_, v, e⟩ | ⟨_, r, e⟩ | e
  · exact absurd (e.symm.trans h) answer_ne_fault
  · exact absurd (e.symm.trans h) commit_ne_fault
  · cases e.symm.trans h
    rfl

theorem not_reservedWord_of_encode (i : Instr) : ¬ ReservedWord (encode i).cmd := by
  simp [← decode_eq_none]

/-- A request faults exactly as its command word violates the contract. -/
theorem exec_eq_fault_iff {i : Instr} {s : State} {f : Fault} :
    exec i s = .fault f ↔ ViolationCause (s.regs.fr Config.hw) (encode i).cmd f := by
  cases f with
  | reservedEncoding =>
    exact iff_of_false (fun h => nomatch fault_eq_oddPair_of_exec h) (not_reservedWord_of_encode i)
  | oddPair =>
    cases i with
    | fprRead64 => simpa [ViolationCause, encode] using exec_fprRead64_eq_oddPair
    | fprWrite64 => simpa [ViolationCause, encode] using exec_fprWrite64_eq_oddPair
    | gprRead32 | gprRead64 | fprRead32 | cp0Read | pcRead32 | pcRead64 | mdRead | llRead =>
      exact iff_of_false answer_ne_fault (by simp [ViolationCause, encode])
    | gprWrite32 | gprWrite64 | fprWrite32 | cp0Write | pcWrite32 | pcWrite64 | mdWrite | llWrite =>
      exact iff_of_false commit_ne_fault (by simp [ViolationCause, encode])

theorem fpr64_of_target_of_wide {i : Instr} (hfpr : targetOfInstr i = .fpr) (hwide : isWide i = true) :
    (∃ r, i = .fprRead64 r) ∨ ∃ r v, i = .fprWrite64 r v := by
  cases i with
  | fprRead64 r => exact .inl ⟨r, rfl⟩
  | fprWrite64 r v => exact .inr ⟨r, v, rfl⟩
  | fprRead32 | fprWrite32 => cases hwide
  | _ => cases hfpr

/-- Settles O14: the decoder refuses the reserved words, which the command alone decides and `op` 0x05 and 0x07 are not
among, and of the requests only the wide FPR ones fault. -/
theorem errorCausesExcludeEachOther : Obligations.ErrorCausesExcludeEachOther := by
  refine ⟨fun c w w' h => ?_, fun c w hop h => not_reservedWord_of_fpr64 hop (decode_eq_none.mp h), fun i s f h => ?_⟩
  · have hreserved : ReservedWord c := decode_eq_none.mp h
    exact decode_eq_none.mpr hreserved
  · obtain ⟨hfpr, hwide, _⟩ := onlyPairedMode64BitFprRequestsViolate i s f h
    exact ⟨fault_eq_oddPair_of_exec h, fpr64_of_target_of_wide hfpr hwide⟩

/-! ## The steps that fault -/

theorem idle_or_presented (s : State) : (s.input = [] ∨ ∃ q rest, s.input = ⟨false, q⟩ :: rest) ∨
    ∃ q rest, s.input = ⟨true, q⟩ :: rest := by
  rcases step_cases s with ⟨hin, _⟩ | ⟨q, rest, _, hin, _⟩ | ⟨q, rest, hin, _⟩
  · exact .inl hin
  all_goals exact .inr ⟨q, rest, hin⟩

/-- A step with a request presented faults exactly as its command word violates the contract. -/
theorem step_eq_fault_iff_of_presented {s : State} {q : Request} {rest : List PortInput} {f : Fault}
    (hin : s.input = ⟨true, q⟩ :: rest) : step s = .fault f ↔ ViolationCause (s.regs.fr Config.hw) q.cmd f := by
  cases hdec : decode q with
  | none =>
    rw [step_reserved hin hdec, violationCause_of_reservedWord (decode_eq_none.mp hdec), Host.Outcome.fault.injEq,
      eq_comm]
  | some i => rw [stepRunsTheDecodedRequest s q rest i hin hdec, exec_eq_fault_iff, cmd_encode_of_decode hdec]

theorem presented_of_step_eq_fault {s : State} {f : Fault} (h : step s = .fault f) :
    ∃ q rest, s.input = ⟨true, q⟩ :: rest :=
  (idle_or_presented s).resolve_left fun hin => nomatch (step_idle hin).symm.trans h

theorem step_eq_fault_iff {s : State} {f : Fault} : step s = .fault f ↔
    ∃ q rest, s.input = ⟨true, q⟩ :: rest ∧ ViolationCause (s.regs.fr Config.hw) q.cmd f := by
  refine ⟨fun h => ?_, fun ⟨q, rest, hin, hcause⟩ => (step_eq_fault_iff_of_presented hin).mpr hcause⟩
  obtain ⟨q, rest, hin⟩ := presented_of_step_eq_fault h
  exact ⟨q, rest, hin, (step_eq_fault_iff_of_presented hin).mp h⟩

/-! ## Completing steps -/

theorem step_ne_refused (s : State) (r : Refusal) : step s ≠ .refused r := by
  rcases step_cases s with ⟨_, hs⟩ | ⟨_, _, i, _, _, hs⟩ | ⟨_, _, _, _, hs⟩ <;> rw [hs]
  · nofun
  · exact exec_ne_refused i _ r
  · nofun

theorem exists_step_eq_next_iff {s : State} : (∃ t, step s = .next t) ↔ ¬ ∃ f, step s = .fault f := by
  cases hs : step s with
  | next | fault => simp
  | refused r => exact absurd hs (step_ne_refused s r)

theorem safeStep_eq_false {s : State} : safeStep s = false ↔ ∃ f, step s = .fault f := by
  rcases idle_or_presented s with hin | ⟨q, rest, hin⟩
  · simp [safeStep, fetch_idle hin, step_idle hin]
  · simp only [safeStep, fetch_request hin, obeysContract_eq_false, step_eq_fault_iff_of_presented hin]

/-- Settles O11: a step that does not complete faults, and that is where the contract is broken. -/
theorem stepCompletesExactlyOnContract : Obligations.StepCompletesExactlyOnContract := by
  refine fun s => ⟨?_, step_ne_refused s⟩
  rw [exists_step_eq_next_iff, ← safeStep_eq_false, Bool.not_eq_false]

theorem err_of_presented_next {s t : State} {q : Request} {rest : List PortInput}
    (hin : s.input = ⟨true, q⟩ :: rest) (h : step s = .next t) : t.rsp.err = .ok := by
  cases hdec : decode q with
  | none => cases (step_reserved hin hdec).symm.trans h
  | some i =>
    obtain ⟨_, _, herr⟩ := exec_next_port ((stepRunsTheDecodedRequest s q rest i hin hdec).symm.trans h)
    exact herr

/-! ## The violation at the port -/

/-- Settles O55: the port shows the violation on the state past the presented request. -/
theorem violatingRequestIsUsedUp : Obligations.ViolatingRequestIsUsedUp := by
  intro s q rest f hin h
  rw [portStep_of_fault h, fetch_request hin, violated]

/-- Settles O12: the two codes by the causes of a faulting step; the port then changes only the response and the
stream. -/
theorem violationCauses : Obligations.ViolationCauses := by
  refine ⟨fun _ => step_eq_fault_iff, fun _ => step_eq_fault_iff, fun s f h => ?_⟩
  obtain ⟨q, rest, hin⟩ := presented_of_step_eq_fault h
  rw [violatingRequestIsUsedUp s q rest f hin h]

theorem portStep_of_next {s t : State} (h : step s = .next t) : portStep s = t := by
  simp only [portStep, h]

/-- Settles O13, by the outcome of the step. -/
theorem requestCompletesOrWritesNothing : Obligations.RequestCompletesOrWritesNothing := by
  refine ⟨fun s q rest hin => ?_, rfl, rfl, rfl, rfl, rfl, fun e => by cases e <;> decide⟩
  cases hs : step s with
  | next t => exact .inl ⟨t, rfl, portStep_of_next hs, err_of_presented_next hin hs⟩
  | fault f =>
    rw [violatingRequestIsUsedUp s q rest f hin hs]
    exact .inr ⟨f, rfl, rfl, rfl⟩
  | refused r => exact absurd hs (step_ne_refused s r)

end Sys2Proof.Machine
end

section
/-! SUPPORT. Proof of the statement of reset: what the cells hold after it (R230). -/

namespace Sys2Proof.Machine

/-- Settles O15: the three banks are the zero bank, each cell of which reads 0, and the other cells are fields of the
reset storage. -/
theorem resetLeavesEveryCellZero : Obligations.ResetLeavesEveryCellZero :=
  ⟨fun i => ⟨cellAt_zero i, cellAt_zero i, cellAt_zero i⟩, rfl, rfl, rfl, rfl⟩

end Sys2Proof.Machine
end
